-- ==== Sys2Proof/Word.lean ====
section
/-! DEFINITION. The bit vectors of the machine: a 32-bit word, its byte, and the widths of the instruction fields
(00_scope.md R1, R5, R10; 30_encoding.md R141). Bit 0 is the least significant bit (R9); `u(v)` of R10 is `v.toNat`, `s(v)` is
`v.toInt`, `sext` is `BitVec.signExtend`, `zext` is `BitVec.setWidth`, `‖` is `++`, `v[hi:lo]` is `v.extractLsb' lo (hi-lo+1)`. -/

namespace Sys2Proof

/-- "Machine word — unsigned 32-bit; signed interpretation is context-dependent" (R1, R10). -/
abbrev Word := BitVec 32

/-- The smallest addressable unit (R60). -/
abbrev Byte := BitVec 8

/-- The number of a general register (R20), also the 5-bit number of a coprocessor register (R29). -/
abbrev Reg := BitVec 5

/-- A 16-bit immediate field (R141). -/
abbrev Imm := BitVec 16

/-- The jump target field `w[25:0]` (R141). -/
abbrev Index := BitVec 26

/-- The code field `w[25:6]` of SYSCALL and BREAK (R141). -/
abbrev Code := BitVec 20

/-- The select field `w[2:0]` of MFC0 and MTC0 (R141). -/
abbrev Sel := BitVec 3

end Sys2Proof
end

