-- ==== Sys2Proof/Syntax.lean ====
section
/-! DEFINITION. The 56 instructions of 30_encoding.md R146, one constructor per row of spec/opcode_table.json in the table's order.
A constructor's arguments are the row's free fields in assembly operand order (R149); must-be-zero fields are not kept, since a word
with one of them nonzero is no instruction (R150). Every field has exactly its width in bits, so every term is in range (R152). -/

namespace Sys2Proof

/-- A decoded operation: the mnemonic and the values of its row's free fields (R146, R149). -/
inductive Instr where
  | sll (rd rt : Reg) (shamt : BitVec 5)
  | srl (rd rt : Reg) (shamt : BitVec 5)
  | sra (rd rt : Reg) (shamt : BitVec 5)
  | sllv (rd rt rs : Reg)
  | srlv (rd rt rs : Reg)
  | srav (rd rt rs : Reg)
  | jr (rs : Reg)
  | jalr (rd rs : Reg)
  | syscall (code : Code)
  | brk (code : Code)
  | mfhi (rd : Reg)
  | mflo (rd : Reg)
  | mthi (rs : Reg)
  | mtlo (rs : Reg)
  | mult (rs rt : Reg)
  | multu (rs rt : Reg)
  | div (rs rt : Reg)
  | divu (rs rt : Reg)
  | add (rd rs rt : Reg)
  | addu (rd rs rt : Reg)
  | sub (rd rs rt : Reg)
  | subu (rd rs rt : Reg)
  | and (rd rs rt : Reg)
  | or (rd rs rt : Reg)
  | xor (rd rs rt : Reg)
  | nor (rd rs rt : Reg)
  | slt (rd rs rt : Reg)
  | sltu (rd rs rt : Reg)
  | bltz (rs : Reg) (imm : Imm)
  | bgez (rs : Reg) (imm : Imm)
  | bltzal (rs : Reg) (imm : Imm)
  | bgezal (rs : Reg) (imm : Imm)
  | j (index : Index)
  | jal (index : Index)
  | beq (rs rt : Reg) (imm : Imm)
  | bne (rs rt : Reg) (imm : Imm)
  | blez (rs : Reg) (imm : Imm)
  | bgtz (rs : Reg) (imm : Imm)
  | addi (rt rs : Reg) (imm : Imm)
  | addiu (rt rs : Reg) (imm : Imm)
  | slti (rt rs : Reg) (imm : Imm)
  | sltiu (rt rs : Reg) (imm : Imm)
  | andi (rt rs : Reg) (imm : Imm)
  | ori (rt rs : Reg) (imm : Imm)
  | xori (rt rs : Reg) (imm : Imm)
  | lui (rt : Reg) (imm : Imm)
  | mfc0 (rt rd : Reg) (sel : Sel)
  | mtc0 (rt rd : Reg) (sel : Sel)
  | lb (rt : Reg) (imm : Imm) (rs : Reg)
  | lh (rt : Reg) (imm : Imm) (rs : Reg)
  | lw (rt : Reg) (imm : Imm) (rs : Reg)
  | lbu (rt : Reg) (imm : Imm) (rs : Reg)
  | lhu (rt : Reg) (imm : Imm) (rs : Reg)
  | sb (rt : Reg) (imm : Imm) (rs : Reg)
  | sh (rt : Reg) (imm : Imm) (rs : Reg)
  | sw (rt : Reg) (imm : Imm) (rs : Reg)
  deriving DecidableEq, Repr

end Sys2Proof
end

