-- ==== Sys2Proof/Decode.lean ====
section
/-! DEFINITION. The instruction decoder and encoder (30_encoding.md, component E): the fields of a word (R141), the table of R149 and
the decoder written from it (R156), the byte-level decoder, the decoded record (R141), the encoder (R152), and the same decoder read
on a word numbered as spec/opcode_table.json numbers it. Decoding is a pure function of one word (R140). -/

namespace Sys2Proof

/-! The fields of a word, R141. -/

def wOp (w : Word) : BitVec 6 := w.extractLsb' 26 6
def wFunct (w : Word) : BitVec 6 := w.extractLsb' 0 6
def wRs (w : Word) : Reg := w.extractLsb' 21 5
def wRt (w : Word) : Reg := w.extractLsb' 16 5
def wRd (w : Word) : Reg := w.extractLsb' 11 5
def wShamt (w : Word) : BitVec 5 := w.extractLsb' 6 5
def wImm (w : Word) : Imm := w.extractLsb' 0 16
def wIndex (w : Word) : Index := w.extractLsb' 0 26
def wCode (w : Word) : Code := w.extractLsb' 6 20
def wSel (w : Word) : Sel := w.extractLsb' 0 3

/-- A row of the table of R149: the word `w` is the instruction of the row exactly when `w AND mask = pattern`. -/
structure Row where
  mnemonic : String
  pattern : Word
  mask : Word
  build : Word → Instr

/-- R149: "A word `w` is the instruction of a row exactly when `w AND mask = match`". -/
def Row.hits (r : Row) (w : Word) : Bool := decide (w &&& r.mask = r.pattern)

/-- R149, rows SLL to MTLO. -/
def rowsSpecialA : List Row :=
  [ ⟨"SLL", 0x00000000#32, 0xffe0003f#32, fun w => .sll (wRd w) (wRt w) (wShamt w)⟩,
    ⟨"SRL", 0x00000002#32, 0xffe0003f#32, fun w => .srl (wRd w) (wRt w) (wShamt w)⟩,
    ⟨"SRA", 0x00000003#32, 0xffe0003f#32, fun w => .sra (wRd w) (wRt w) (wShamt w)⟩,
    ⟨"SLLV", 0x00000004#32, 0xfc0007ff#32, fun w => .sllv (wRd w) (wRt w) (wRs w)⟩,
    ⟨"SRLV", 0x00000006#32, 0xfc0007ff#32, fun w => .srlv (wRd w) (wRt w) (wRs w)⟩,
    ⟨"SRAV", 0x00000007#32, 0xfc0007ff#32, fun w => .srav (wRd w) (wRt w) (wRs w)⟩,
    ⟨"JR", 0x00000008#32, 0xfc1fffff#32, fun w => .jr (wRs w)⟩,
    ⟨"JALR", 0x00000009#32, 0xfc1f07ff#32, fun w => .jalr (wRd w) (wRs w)⟩,
    ⟨"SYSCALL", 0x0000000c#32, 0xfc00003f#32, fun w => .syscall (wCode w)⟩,
    ⟨"BREAK", 0x0000000d#32, 0xfc00003f#32, fun w => .brk (wCode w)⟩,
    ⟨"MFHI", 0x00000010#32, 0xffff07ff#32, fun w => .mfhi (wRd w)⟩,
    ⟨"MFLO", 0x00000012#32, 0xffff07ff#32, fun w => .mflo (wRd w)⟩,
    ⟨"MTHI", 0x00000011#32, 0xfc1fffff#32, fun w => .mthi (wRs w)⟩,
    ⟨"MTLO", 0x00000013#32, 0xfc1fffff#32, fun w => .mtlo (wRs w)⟩ ]

/-- R149, rows MULT to SLTU. -/
def rowsSpecialB : List Row :=
  [ ⟨"MULT", 0x00000018#32, 0xfc00ffff#32, fun w => .mult (wRs w) (wRt w)⟩,
    ⟨"MULTU", 0x00000019#32, 0xfc00ffff#32, fun w => .multu (wRs w) (wRt w)⟩,
    ⟨"DIV", 0x0000001a#32, 0xfc00ffff#32, fun w => .div (wRs w) (wRt w)⟩,
    ⟨"DIVU", 0x0000001b#32, 0xfc00ffff#32, fun w => .divu (wRs w) (wRt w)⟩,
    ⟨"ADD", 0x00000020#32, 0xfc0007ff#32, fun w => .add (wRd w) (wRs w) (wRt w)⟩,
    ⟨"ADDU", 0x00000021#32, 0xfc0007ff#32, fun w => .addu (wRd w) (wRs w) (wRt w)⟩,
    ⟨"SUB", 0x00000022#32, 0xfc0007ff#32, fun w => .sub (wRd w) (wRs w) (wRt w)⟩,
    ⟨"SUBU", 0x00000023#32, 0xfc0007ff#32, fun w => .subu (wRd w) (wRs w) (wRt w)⟩,
    ⟨"AND", 0x00000024#32, 0xfc0007ff#32, fun w => .and (wRd w) (wRs w) (wRt w)⟩,
    ⟨"OR", 0x00000025#32, 0xfc0007ff#32, fun w => .or (wRd w) (wRs w) (wRt w)⟩,
    ⟨"XOR", 0x00000026#32, 0xfc0007ff#32, fun w => .xor (wRd w) (wRs w) (wRt w)⟩,
    ⟨"NOR", 0x00000027#32, 0xfc0007ff#32, fun w => .nor (wRd w) (wRs w) (wRt w)⟩,
    ⟨"SLT", 0x0000002a#32, 0xfc0007ff#32, fun w => .slt (wRd w) (wRs w) (wRt w)⟩,
    ⟨"SLTU", 0x0000002b#32, 0xfc0007ff#32, fun w => .sltu (wRd w) (wRs w) (wRt w)⟩ ]

/-- R149, rows BLTZ to SLTIU. -/
def rowsImmediateA : List Row :=
  [ ⟨"BLTZ", 0x04000000#32, 0xfc1f0000#32, fun w => .bltz (wRs w) (wImm w)⟩,
    ⟨"BGEZ", 0x04010000#32, 0xfc1f0000#32, fun w => .bgez (wRs w) (wImm w)⟩,
    ⟨"BLTZAL", 0x04100000#32, 0xfc1f0000#32, fun w => .bltzal (wRs w) (wImm w)⟩,
    ⟨"BGEZAL", 0x04110000#32, 0xfc1f0000#32, fun w => .bgezal (wRs w) (wImm w)⟩,
    ⟨"J", 0x08000000#32, 0xfc000000#32, fun w => .j (wIndex w)⟩,
    ⟨"JAL", 0x0c000000#32, 0xfc000000#32, fun w => .jal (wIndex w)⟩,
    ⟨"BEQ", 0x10000000#32, 0xfc000000#32, fun w => .beq (wRs w) (wRt w) (wImm w)⟩,
    ⟨"BNE", 0x14000000#32, 0xfc000000#32, fun w => .bne (wRs w) (wRt w) (wImm w)⟩,
    ⟨"BLEZ", 0x18000000#32, 0xfc1f0000#32, fun w => .blez (wRs w) (wImm w)⟩,
    ⟨"BGTZ", 0x1c000000#32, 0xfc1f0000#32, fun w => .bgtz (wRs w) (wImm w)⟩,
    ⟨"ADDI", 0x20000000#32, 0xfc000000#32, fun w => .addi (wRt w) (wRs w) (wImm w)⟩,
    ⟨"ADDIU", 0x24000000#32, 0xfc000000#32, fun w => .addiu (wRt w) (wRs w) (wImm w)⟩,
    ⟨"SLTI", 0x28000000#32, 0xfc000000#32, fun w => .slti (wRt w) (wRs w) (wImm w)⟩,
    ⟨"SLTIU", 0x2c000000#32, 0xfc000000#32, fun w => .sltiu (wRt w) (wRs w) (wImm w)⟩ ]

/-- R149, rows ANDI to SW. -/
def rowsImmediateB : List Row :=
  [ ⟨"ANDI", 0x30000000#32, 0xfc000000#32, fun w => .andi (wRt w) (wRs w) (wImm w)⟩,
    ⟨"ORI", 0x34000000#32, 0xfc000000#32, fun w => .ori (wRt w) (wRs w) (wImm w)⟩,
    ⟨"XORI", 0x38000000#32, 0xfc000000#32, fun w => .xori (wRt w) (wRs w) (wImm w)⟩,
    ⟨"LUI", 0x3c000000#32, 0xffe00000#32, fun w => .lui (wRt w) (wImm w)⟩,
    ⟨"MFC0", 0x40000000#32, 0xffe007f8#32, fun w => .mfc0 (wRt w) (wRd w) (wSel w)⟩,
    ⟨"MTC0", 0x40800000#32, 0xffe007f8#32, fun w => .mtc0 (wRt w) (wRd w) (wSel w)⟩,
    ⟨"LB", 0x80000000#32, 0xfc000000#32, fun w => .lb (wRt w) (wImm w) (wRs w)⟩,
    ⟨"LH", 0x84000000#32, 0xfc000000#32, fun w => .lh (wRt w) (wImm w) (wRs w)⟩,
    ⟨"LW", 0x8c000000#32, 0xfc000000#32, fun w => .lw (wRt w) (wImm w) (wRs w)⟩,
    ⟨"LBU", 0x90000000#32, 0xfc000000#32, fun w => .lbu (wRt w) (wImm w) (wRs w)⟩,
    ⟨"LHU", 0x94000000#32, 0xfc000000#32, fun w => .lhu (wRt w) (wImm w) (wRs w)⟩,
    ⟨"SB", 0xa0000000#32, 0xfc000000#32, fun w => .sb (wRt w) (wImm w) (wRs w)⟩,
    ⟨"SH", 0xa4000000#32, 0xfc000000#32, fun w => .sh (wRt w) (wImm w) (wRs w)⟩,
    ⟨"SW", 0xac000000#32, 0xfc000000#32, fun w => .sw (wRt w) (wImm w) (wRs w)⟩ ]

/-- The complete table of R149. -/
def opcodeTable : List Row := rowsSpecialA ++ (rowsSpecialB ++ (rowsImmediateA ++ rowsImmediateB))

/-- The first row of a table that a word hits (R156). -/
def findRow (w : Word) : List Row → Option Row
  | [] => none
  | r :: rest => if r.hits w then some r else findRow w rest

/-- R156: the decoded instruction, or none for the verdict `unsupported` (R150). -/
def decode (w : Word) : Option Instr := (findRow w opcodeTable).map (fun r => r.build w)

/-- Why bytes do not decode: fewer than the four bytes of an instruction (R142), or a word that matches no row (R150). -/
inductive DecodeError where
  | truncated
  | unsupported (w : Word)
  deriving DecidableEq, Repr

/-- The word of four bytes, the first at the lowest address: big-endian (R64, R142). -/
def wordOfBytes (b0 b1 b2 b3 : Byte) : Word := b0 ++ b1 ++ b2 ++ b3

/-- The byte of a word that lies `k` bytes above the word's address: `w[31-8k : 24-8k]` (R64, R66). -/
def byteOfWord (w : Word) (k : Nat) : Byte := w.extractLsb' (24 - 8 * k) 8

/-- The four bytes of a word in address order (R64). -/
def bytesOfWord (w : Word) : List Byte := [byteOfWord w 0, byteOfWord w 1, byteOfWord w 2, byteOfWord w 3]

/-- Decoding of a sequence of bytes as memory holds them: one instruction and the rest of the bytes. Total, rejecting by name. -/
def decodeBytes : List Byte → Except DecodeError (Instr × List Byte)
  | b0 :: b1 :: b2 :: b3 :: rest =>
    match decode (wordOfBytes b0 b1 b2 b3) with
    | some i => .ok (i, rest)
    | none => .error (.unsupported (wordOfBytes b0 b1 b2 b3))
  | _ => .error .truncated

/-- A field value shifted to its position (R152). -/
def fieldAt {n : Nat} (v : BitVec n) (pos : Nat) : Word := v.setWidth 32 <<< pos

/-- R152: `match OR (each field shifted to its position)`, with every must-be-zero bit 0. -/
def encode : Instr → Word
  | .sll rd rt shamt => 0x00000000#32 ||| fieldAt rd 11 ||| fieldAt rt 16 ||| fieldAt shamt 6
  | .srl rd rt shamt => 0x00000002#32 ||| fieldAt rd 11 ||| fieldAt rt 16 ||| fieldAt shamt 6
  | .sra rd rt shamt => 0x00000003#32 ||| fieldAt rd 11 ||| fieldAt rt 16 ||| fieldAt shamt 6
  | .sllv rd rt rs => 0x00000004#32 ||| fieldAt rd 11 ||| fieldAt rt 16 ||| fieldAt rs 21
  | .srlv rd rt rs => 0x00000006#32 ||| fieldAt rd 11 ||| fieldAt rt 16 ||| fieldAt rs 21
  | .srav rd rt rs => 0x00000007#32 ||| fieldAt rd 11 ||| fieldAt rt 16 ||| fieldAt rs 21
  | .jr rs => 0x00000008#32 ||| fieldAt rs 21
  | .jalr rd rs => 0x00000009#32 ||| fieldAt rd 11 ||| fieldAt rs 21
  | .syscall code => 0x0000000c#32 ||| fieldAt code 6
  | .brk code => 0x0000000d#32 ||| fieldAt code 6
  | .mfhi rd => 0x00000010#32 ||| fieldAt rd 11
  | .mflo rd => 0x00000012#32 ||| fieldAt rd 11
  | .mthi rs => 0x00000011#32 ||| fieldAt rs 21
  | .mtlo rs => 0x00000013#32 ||| fieldAt rs 21
  | .mult rs rt => 0x00000018#32 ||| fieldAt rs 21 ||| fieldAt rt 16
  | .multu rs rt => 0x00000019#32 ||| fieldAt rs 21 ||| fieldAt rt 16
  | .div rs rt => 0x0000001a#32 ||| fieldAt rs 21 ||| fieldAt rt 16
  | .divu rs rt => 0x0000001b#32 ||| fieldAt rs 21 ||| fieldAt rt 16
  | .add rd rs rt => 0x00000020#32 ||| fieldAt rd 11 ||| fieldAt rs 21 ||| fieldAt rt 16
  | .addu rd rs rt => 0x00000021#32 ||| fieldAt rd 11 ||| fieldAt rs 21 ||| fieldAt rt 16
  | .sub rd rs rt => 0x00000022#32 ||| fieldAt rd 11 ||| fieldAt rs 21 ||| fieldAt rt 16
  | .subu rd rs rt => 0x00000023#32 ||| fieldAt rd 11 ||| fieldAt rs 21 ||| fieldAt rt 16
  | .and rd rs rt => 0x00000024#32 ||| fieldAt rd 11 ||| fieldAt rs 21 ||| fieldAt rt 16
  | .or rd rs rt => 0x00000025#32 ||| fieldAt rd 11 ||| fieldAt rs 21 ||| fieldAt rt 16
  | .xor rd rs rt => 0x00000026#32 ||| fieldAt rd 11 ||| fieldAt rs 21 ||| fieldAt rt 16
  | .nor rd rs rt => 0x00000027#32 ||| fieldAt rd 11 ||| fieldAt rs 21 ||| fieldAt rt 16
  | .slt rd rs rt => 0x0000002a#32 ||| fieldAt rd 11 ||| fieldAt rs 21 ||| fieldAt rt 16
  | .sltu rd rs rt => 0x0000002b#32 ||| fieldAt rd 11 ||| fieldAt rs 21 ||| fieldAt rt 16
  | .bltz rs imm => 0x04000000#32 ||| fieldAt rs 21 ||| fieldAt imm 0
  | .bgez rs imm => 0x04010000#32 ||| fieldAt rs 21 ||| fieldAt imm 0
  | .bltzal rs imm => 0x04100000#32 ||| fieldAt rs 21 ||| fieldAt imm 0
  | .bgezal rs imm => 0x04110000#32 ||| fieldAt rs 21 ||| fieldAt imm 0
  | .j index => 0x08000000#32 ||| fieldAt index 0
  | .jal index => 0x0c000000#32 ||| fieldAt index 0
  | .beq rs rt imm => 0x10000000#32 ||| fieldAt rs 21 ||| fieldAt rt 16 ||| fieldAt imm 0
  | .bne rs rt imm => 0x14000000#32 ||| fieldAt rs 21 ||| fieldAt rt 16 ||| fieldAt imm 0
  | .blez rs imm => 0x18000000#32 ||| fieldAt rs 21 ||| fieldAt imm 0
  | .bgtz rs imm => 0x1c000000#32 ||| fieldAt rs 21 ||| fieldAt imm 0
  | .addi rt rs imm => 0x20000000#32 ||| fieldAt rt 16 ||| fieldAt rs 21 ||| fieldAt imm 0
  | .addiu rt rs imm => 0x24000000#32 ||| fieldAt rt 16 ||| fieldAt rs 21 ||| fieldAt imm 0
  | .slti rt rs imm => 0x28000000#32 ||| fieldAt rt 16 ||| fieldAt rs 21 ||| fieldAt imm 0
  | .sltiu rt rs imm => 0x2c000000#32 ||| fieldAt rt 16 ||| fieldAt rs 21 ||| fieldAt imm 0
  | .andi rt rs imm => 0x30000000#32 ||| fieldAt rt 16 ||| fieldAt rs 21 ||| fieldAt imm 0
  | .ori rt rs imm => 0x34000000#32 ||| fieldAt rt 16 ||| fieldAt rs 21 ||| fieldAt imm 0
  | .xori rt rs imm => 0x38000000#32 ||| fieldAt rt 16 ||| fieldAt rs 21 ||| fieldAt imm 0
  | .lui rt imm => 0x3c000000#32 ||| fieldAt rt 16 ||| fieldAt imm 0
  | .mfc0 rt rd sel => 0x40000000#32 ||| fieldAt rt 16 ||| fieldAt rd 11 ||| fieldAt sel 0
  | .mtc0 rt rd sel => 0x40800000#32 ||| fieldAt rt 16 ||| fieldAt rd 11 ||| fieldAt sel 0
  | .lb rt imm rs => 0x80000000#32 ||| fieldAt rt 16 ||| fieldAt imm 0 ||| fieldAt rs 21
  | .lh rt imm rs => 0x84000000#32 ||| fieldAt rt 16 ||| fieldAt imm 0 ||| fieldAt rs 21
  | .lw rt imm rs => 0x8c000000#32 ||| fieldAt rt 16 ||| fieldAt imm 0 ||| fieldAt rs 21
  | .lbu rt imm rs => 0x90000000#32 ||| fieldAt rt 16 ||| fieldAt imm 0 ||| fieldAt rs 21
  | .lhu rt imm rs => 0x94000000#32 ||| fieldAt rt 16 ||| fieldAt imm 0 ||| fieldAt rs 21
  | .sb rt imm rs => 0xa0000000#32 ||| fieldAt rt 16 ||| fieldAt imm 0 ||| fieldAt rs 21
  | .sh rt imm rs => 0xa4000000#32 ||| fieldAt rt 16 ||| fieldAt imm 0 ||| fieldAt rs 21
  | .sw rt imm rs => 0xac000000#32 ||| fieldAt rt 16 ||| fieldAt imm 0 ||| fieldAt rs 21

/-- The bytes of an instruction in memory, the first at the lowest address (R142). -/
def encodeBytes (i : Instr) : List Byte := bytesOfWord (encode i)

/-- The mnemonic of an instruction, as R146 and spec/opcode_table.json spell it. -/
def Instr.mnemonic : Instr → String
  | .sll _ _ _ => "SLL"
  | .srl _ _ _ => "SRL"
  | .sra _ _ _ => "SRA"
  | .sllv _ _ _ => "SLLV"
  | .srlv _ _ _ => "SRLV"
  | .srav _ _ _ => "SRAV"
  | .jr _ => "JR"
  | .jalr _ _ => "JALR"
  | .syscall _ => "SYSCALL"
  | .brk _ => "BREAK"
  | .mfhi _ => "MFHI"
  | .mflo _ => "MFLO"
  | .mthi _ => "MTHI"
  | .mtlo _ => "MTLO"
  | .mult _ _ => "MULT"
  | .multu _ _ => "MULTU"
  | .div _ _ => "DIV"
  | .divu _ _ => "DIVU"
  | .add _ _ _ => "ADD"
  | .addu _ _ _ => "ADDU"
  | .sub _ _ _ => "SUB"
  | .subu _ _ _ => "SUBU"
  | .and _ _ _ => "AND"
  | .or _ _ _ => "OR"
  | .xor _ _ _ => "XOR"
  | .nor _ _ _ => "NOR"
  | .slt _ _ _ => "SLT"
  | .sltu _ _ _ => "SLTU"
  | .bltz _ _ => "BLTZ"
  | .bgez _ _ => "BGEZ"
  | .bltzal _ _ => "BLTZAL"
  | .bgezal _ _ => "BGEZAL"
  | .j _ => "J"
  | .jal _ => "JAL"
  | .beq _ _ _ => "BEQ"
  | .bne _ _ _ => "BNE"
  | .blez _ _ => "BLEZ"
  | .bgtz _ _ => "BGTZ"
  | .addi _ _ _ => "ADDI"
  | .addiu _ _ _ => "ADDIU"
  | .slti _ _ _ => "SLTI"
  | .sltiu _ _ _ => "SLTIU"
  | .andi _ _ _ => "ANDI"
  | .ori _ _ _ => "ORI"
  | .xori _ _ _ => "XORI"
  | .lui _ _ => "LUI"
  | .mfc0 _ _ _ => "MFC0"
  | .mtc0 _ _ _ => "MTC0"
  | .lb _ _ _ => "LB"
  | .lh _ _ _ => "LH"
  | .lw _ _ _ => "LW"
  | .lbu _ _ _ => "LBU"
  | .lhu _ _ _ => "LHU"
  | .sb _ _ _ => "SB"
  | .sh _ _ _ => "SH"
  | .sw _ _ _ => "SW"

/-- The decoded record of R141. Every field but `mnemonic` and `reloc` is a fixed slice of the word, whatever its format. -/
structure DecodedRecord where
  word : Word
  mnemonic : String
  op : BitVec 6
  funct : BitVec 6
  rs : Reg
  rt : Reg
  rd : Reg
  shamt : BitVec 5
  immS : Word
  immZ : Word
  index : Index
  code : Code
  sel : Sel
  /-- The unresolved symbol of an assembler's word; always none out of the decoder (R141, R155). -/
  reloc : Option String
  deriving DecidableEq, Repr

/-- R141, R156: the record of a word the decoder accepts. -/
def decodeRecord (w : Word) : Option DecodedRecord :=
  (findRow w opcodeTable).map fun r =>
    { word := w, mnemonic := r.mnemonic, op := wOp w, funct := wFunct w, rs := wRs w, rt := wRt w, rd := wRd w,
      shamt := wShamt w, immS := (wImm w).signExtend 32, immZ := (wImm w).setWidth 32, index := wIndex w,
      code := wCode w, sel := wSel w, reloc := none }

/-- The instruction this decoder reads from a word given as spec/opcode_table.json numbers bits: the word of `nbits` bits, the bits
above them 0, laid out as memory holds it and given to `decodeBytes`. -/
def decodeTableWord (nbits w : Nat) : Option Instr :=
  match decodeBytes (bytesOfWord (BitVec.ofNat 32 (w % 2 ^ nbits))) with
  | .ok (i, _) => some i
  | .error _ => none

end Sys2Proof
end

