-- ==== Sys2Proof/Config.lean ====
section
/-! DEFINITION. The configuration of a machine (00_scope.md R5) as plain data, the width and the source of an access (20_memory.md R63),
and the values the spec leaves free, as opaque constants without a body. A configuration is fixed for a run; the state carries it in one
field that no step changes. -/

namespace Sys2Proof.Machine

/-- The width of an access (R63): 1, 2 or 4 bytes. -/
inductive Width where
  | byte
  | half
  | word
  deriving DecidableEq, Repr

/-- Who makes an access to the address space (R63). Every access a core makes is `cpu`. -/
inductive AccessSource where
  | cpu
  | peripheralBurst
  | probe
  deriving DecidableEq, Repr

end Sys2Proof.Machine

namespace Sys2Proof

/-- `hazard_unit` (R5); read by the pipelined core only. -/
inductive HazardUnit where
  | none
  | stall
  | forward
  deriving DecidableEq, Repr

/-- The replacement policy of a cache (R100). -/
inductive Replacement where
  | rand
  | lru
  | lfu
  deriving DecidableEq, Repr

/-- The write policy of a cache (R100). -/
inductive WritePolicy where
  | writeBack
  | writeThroughNoAlloc
  | writeThroughAlloc
  deriving DecidableEq, Repr

/-- The configuration record of one cache (R100): `sets` is S, `words` is W, `ways` is A. -/
structure CacheCfg where
  enabled : Bool
  sets : Nat
  words : Nat
  ways : Nat
  replacement : Replacement
  writePolicy : WritePolicy
  deriving DecidableEq, Repr

/-- Which of the two caches (R100). -/
inductive CacheSide where
  | instruction
  | data
  deriving DecidableEq, Repr

/-- What a range of the map is bound to (R60, R61): RAM or the peripheral of that number. -/
inductive Backend where
  | ram
  | peripheral (device : Nat)
  deriving DecidableEq, Repr

/-- One half-open range `[lo, hi)` of the map (R61). `uncached` says that the range is in `UNCACHED` (R101). -/
structure Range where
  lo : Nat
  hi : Nat
  backend : Backend
  uncached : Bool
  deriving DecidableEq, Repr

/-- The initial values of the four Coprocessor 0 registers, `INIT_CP0` (R5). -/
structure Cp0Init where
  badVAddr : Word
  status : Word
  cause : Word
  epc : Word
  deriving DecidableEq, Repr

/-- The parameters of R5 that are data. `XLEN` and `NGPR` are the types `Word` and `Reg`; `CP0_SET` is
`Machine.cp0Of`; `PERIPH`, `RAND_CHOICE` and `DIV0_RESULT` are the opaque constants below. -/
structure Config where
  pipelined : Bool
  delaySlot : Bool
  hazardUnit : HazardUnit
  iCache : CacheCfg
  dCache : CacheCfg
  memReadTime : Nat
  memWriteTime : Nat
  memBurstTime : Nat
  /-- Host and assembler behaviour only; no rule of the cores reads it (R5). -/
  resetAtAssembly : Bool
  /-- Named in the source with no semantics; no rule reads it (R5, R286). -/
  osemuEnable : Bool
  haltAddr : Option Word
  resetPc : Word
  /-- `INIT_GPR[1..31]`; the slot of register 0 is not used. -/
  initGpr : Vector Word 32
  initHi : Word
  initLo : Word
  initCp0 : Cp0Init
  map : List Range
  deriving DecidableEq, Repr

/-- A cache that is not enabled (R101). -/
def CacheCfg.off : CacheCfg :=
  { enabled := false, sets := 1, words := 1, ways := 1, replacement := .lru, writePolicy := .writeBack }

/-- `MAP_FLAT = [(0, 2^32, RAM)]`, the map of the spec's test vectors (R61). -/
def Config.mapFlat : List Range := [{ lo := 0, hi := 2 ^ 32, backend := .ram, uncached := false }]

/-- The configuration `State.reset` is built from: every OPEN parameter of R5 at a value this model names.
DESIGN CHOICE (unsafe), notes/assumptions 1 and 2. -/
def Config.default : Config :=
  { pipelined := false, delaySlot := true, hazardUnit := .forward, iCache := .off, dCache := .off,
    memReadTime := 0, memWriteTime := 0, memBurstTime := 0, resetAtAssembly := false, osemuEnable := false,
    haltAddr := none, resetPc := 0x100#32, initGpr := Vector.replicate 32 0#32, initHi := 0#32, initLo := 0#32,
    initCp0 := { badVAddr := 0#32, status := 0#32, cause := 0#32, epc := 0#32 }, map := Config.mapFlat }

/-- `DIV0_RESULT`: the pair (HI, LO) that the n-th draw of the run gives a division by zero (R5, R223, R224): any pair of words.
FREE VALUE, notes/assumptions 7. -/
opaque Config.div0Result : Nat → Word × Word

/-- What the peripheral `device` answers to a read at `offset`, of a width and from a source, that is the given draw of the run (R62, R63, R72,
without `PERIPH`): any value. FREE VALUE, notes/assumptions 8. -/
opaque Config.periphRead (draw device offset : Nat) (n : Machine.Width) (src : Machine.AccessSource) : Word

/-- `RAND_CHOICE`: what the cache's PRNG gives the eviction made by the access of that tick (R106); taken modulo the number of ways.
FREE VALUE, notes/assumptions 9. -/
opaque Config.randChoice : CacheSide → Nat → Nat

/-- What a miss made by the access of that tick adds to the cache's `stall_cycles` (R124 fixes no formula): any number.
FREE VALUE, notes/assumptions 10. -/
opaque Config.stallPenalty : CacheSide → Nat → Nat

end Sys2Proof
end

