-- ==== Sys2Proof/Machine/State.lean ====
section
/-! DEFINITION. The state of the machine as plain data, everything 10_state.md gives it; the trap kinds (60_exceptions.md R371), the
latches of the pipelined core (51_core_pipelined.md R322), the caches (21_cache.md R103), the change notifications (10_state.md R24);
the reasons a step can stop outside the machine; the types of an instruction's effects; and reset (10_state.md R41). -/

namespace Sys2Proof.Machine

/-- Memory: the bytes that are not 0, by strictly rising address below 2^32 (`Memory.wf` in Machine/Memory.lean). An unlisted address reads as 0:
"Reads from never-written pages return 0" (R69). -/
abbrev Memory := List Host.Cell

/-- The flavour of a data access in a trap record (R371). -/
inductive DataAccess where
  | load
  | store
  deriving DecidableEq, Repr

/-- The flavour of a bus error in a trap record (R68, R371). -/
inductive BusSide where
  | fetch
  | data
  deriving DecidableEq, Repr

/-- The trap kinds of R370, with the flavours of the table of R371. No rule raises `unsupportedAlu` (R217). -/
inductive TrapKind where
  | unalignedAccess (access : DataAccess)
  | unalignedJump
  | busError (side : BusSide)
  | syscall
  | brk
  | unsupportedInstruction
  | overflow
  | unsupportedAlu
  deriving DecidableEq, Repr

/-- The run status of R8. -/
inductive RunStatus where
  | running
  | halted
  | trapped (kind : TrapKind)
  deriving DecidableEq, Repr

/-- The four Coprocessor 0 registers of R29. -/
inductive Cp0Reg where
  | badVAddr
  | status
  | cause
  | epc
  deriving DecidableEq, Repr

/-- `reg_kind` of a change notification (R24). -/
inductive RegKind where
  | gp
  | pc
  | hi
  | lo
  | cp0
  deriving DecidableEq, Repr

/-- The change notification `(reg_kind, index, old, new)` of a register write (R24). `index` is the general register's number, the coprocessor
register's `rd` number, and 0 for PC, HI and LO (DESIGN CHOICE, notes/assumptions 11). -/
structure Event where
  kind : RegKind
  index : Nat
  old : Word
  new : Word
  deriving DecidableEq, Repr

/-- One notification of a cycle (R24, R42, R308): of a fetch, of the execution of an instruction, of a write of memory, or of a register write.
R24 gives the form of the last; the rules order the other three and give none a form: the address fetched at and the word, the address of the
instruction and the instruction, the address, width and value of the write (DESIGN CHOICE, notes/assumptions 28). -/
inductive Notification where
  | fetch (pc word : Word)
  | execute (pc : Word) (i : Instr)
  | memory (addr : Word) (width : Width) (value : Word)
  | register (e : Event)
  deriving DecidableEq, Repr

/-- A cache line (R103). -/
structure Line where
  tag : Nat
  valid : Bool
  dirty : Bool
  lastTick : Nat
  count : Nat
  data : List Word
  deriving DecidableEq, Repr

/-- The statistics counters of a cache (R115), and beside them the two parts of `memWrites` that R124 names: write-back bursts B and
single write-through stores T. The number of fills F of R124 is `memReads`. -/
structure CacheStats where
  hits : Nat
  misses : Nat
  memReads : Nat
  memWrites : Nat
  writeBacks : Nat
  throughStores : Nat
  stallCycles : Nat
  deriving DecidableEq, Repr

/-- A cache (R103): S sets of A lines, the access tick, the statistics. -/
structure Cache where
  sets : List (List Line)
  tick : Nat
  stats : CacheStats
  deriving DecidableEq, Repr

/-- A memory operation an instruction asks for (R322): a load with its extension, or a store. -/
inductive MemOp where
  | load (addr : Word) (width : Width) (signed : Bool)
  | store (addr : Word) (width : Width) (value : Word)
  deriving DecidableEq, Repr

/-- A pipeline latch: a bubble or a slot (R322). -/
inductive Latch (α : Type) where
  | bubble
  | slot (v : α)
  deriving DecidableEq, Repr

/-- The payload of an IF/ID slot (R322). -/
inductive Fetched where
  | word (w : Word)
  | busError
  deriving DecidableEq, Repr

/-- An IF/ID slot (R322). -/
structure IfIdSlot where
  pc : Word
  payload : Fetched
  deriving DecidableEq, Repr

/-- The payload of an ID/EX slot (R322): a decoded instruction with the values read for its ports, or a carried fault (R323). -/
inductive Decoded where
  | inst (i : Instr) (a b : Word)
  | fault (kind : TrapKind)
  deriving DecidableEq, Repr

/-- An ID/EX slot (R322). -/
structure IdExSlot where
  pc : Word
  payload : Decoded
  deriving DecidableEq, Repr

/-- An EX/MEM slot (R322). -/
structure ExMemSlot where
  pc : Word
  instr : Instr
  result : Option Word
  memop : Option MemOp
  dest : Option Reg
  deriving DecidableEq, Repr

/-- A MEM/WB slot (R322). -/
structure MemWbSlot where
  pc : Word
  instr : Instr
  value : Option Word
  dest : Option Reg
  deriving DecidableEq, Repr

/-- The state of the machine between two cycles. -/
structure State where
  /-- The configuration (R5), fixed for a run. -/
  cfg : Config
  /-- The general registers (R20). Slot 0 is 0 and is never read nor written (R21). -/
  gpr : Vector Word 32
  /-- PC (R25). -/
  pc : Word
  /-- HI (R28). -/
  hi : Word
  /-- LO (R28). -/
  lo : Word
  /-- BadVAddr, CP0 (8, 0) (R33). -/
  badVAddr : Word
  /-- Status, CP0 (12, 0) (R30). -/
  cp0Status : Word
  /-- Cause, CP0 (13, 0) (R31). -/
  cause : Word
  /-- EPC, CP0 (14, 0) (R32). -/
  epc : Word
  /-- The bytes of RAM (R36, R69). -/
  mem : Memory
  /-- The instruction cache (R39, R101). -/
  iCache : Cache
  /-- The data cache (R39, R101). -/
  dCache : Cache
  /-- Single-cycle core with a delay slot: the target of a taken branch whose delay slot has not executed yet (R37). -/
  pendingTarget : Option Word
  /-- Pipelined core: the four latches (R38). -/
  ifId : Latch IfIdSlot
  idEx : Latch IdExSlot
  exMem : Latch ExMemSlot
  memWb : Latch MemWbSlot
  /-- Pipelined core: a taken target that waits for the fetch of its delay slot (R321). -/
  pendingRedirect : Option Word
  /-- Pipelined core: the next instruction to reach EX is the delay slot of a taken branch (R38, R341). -/
  exDelaySlot : Bool
  /-- The run status (R8, R40). -/
  run : RunStatus
  /-- The cycle counter (R40). -/
  cycles : Nat
  /-- The notifications of the last cycle taken, in delivery order (R24, R42). -/
  events : List Notification
  /-- The model's own counter of the free values drawn so far (notes/assumptions 7 and 8). -/
  draws : Nat
  /-- The symbol table (R77), filled by the loader; the hardware reads `_halt` of it once, to fix `HALT_ADDR` (R404). -/
  symbols : List (String × Word)
  deriving DecidableEq, Repr

/-- Why a step stops outside what the spec describes. -/
inductive Fault where
  /-- Raised by a fetch (`stepSingle`, `stepPipelined`) at a PC that is not a multiple of 4. Safe: "an instruction fetch is never
  misaligned" (R26), so no run of the machine reaches it and the spec gives it no effect; the invariant `PcAligned` rules it out. -/
  | misalignedFetch (pc : Word)
  deriving DecidableEq, Repr

/-- What the model refuses: the situations to which the spec says it gives no meaning and calls `refuse` (R8,
93_implementation_defined.md). -/
inductive Refusal where
  /-- An instruction that has no meaning in this model yet. Safe. -/
  | notModelled (mnemonic : String)
  /-- Raised by the twelve control-transfer instructions in the delay slot of a taken one (R266, R341, U12). Safe. -/
  | controlInDelaySlot
  /-- Raised by MFC0 and MTC0 for a pair `(rd, sel)` outside `CP0_SET` (R34, R288, R289, U13). Safe. -/
  | cp0NotImplemented (rd : Reg) (sel : Sel)
  /-- Raised by a step of a machine whose configuration is not well formed (R6, U17). Safe. -/
  | illFormedConfig
  deriving DecidableEq, Repr

/-- What a meaning answers. -/
abbrev StepResult := Host.Outcome State Fault Refusal

/-- The writes of an instruction's operation block (R302): the value for its destination register, a memory operation, HI, LO, a
Coprocessor 0 register, the target of a taken branch or jump, and whether it consumed a free value. -/
structure Effects where
  result : Option Word := none
  memop : Option MemOp := none
  hi : Option Word := none
  lo : Option Word := none
  cp0 : Option (Cp0Reg × Word) := none
  target : Option Word := none
  drew : Bool := false
  deriving DecidableEq, Repr

/-- What an instruction's operation block yields (R302, R330): its effects, a trap with the faulting address if its kind has one, the
halt of R286, or a refusal. -/
inductive OpOut where
  | done (e : Effects)
  | trap (kind : TrapKind) (addr : Option Word)
  | halt
  | refuse (r : Refusal)
  deriving DecidableEq, Repr

/-- What a read of memory yields (R66, R68): a value and the state after it, or a trap with the faulting address, nothing changed. -/
inductive Access where
  | ok (value : Word) (s : State)
  | trap (kind : TrapKind) (addr : Word)
  deriving DecidableEq, Repr

/-- What a write of memory yields (R67). -/
inductive Stored where
  | ok (s : State)
  | trap (kind : TrapKind) (addr : Word)
  deriving DecidableEq, Repr

/-- What the MEM stage yields (R332): the next MEM/WB latch, or the trap of the instruction at `pc`. -/
inductive MemStage where
  | ok (next : Latch MemWbSlot) (s : State)
  | trap (pc : Word) (kind : TrapKind) (addr : Word)
  deriving DecidableEq, Repr

/-- What the EX stage yields (R330): the next EX/MEM latch and the redirect, or the stop of the instruction at `pc`, or a refusal. -/
inductive ExStage where
  | ok (next : Latch ExMemSlot) (redirect : Option Word) (s : State)
  | trap (pc : Word) (kind : TrapKind) (addr : Option Word)
  | halt (pc : Word)
  | refuse (r : Refusal)
  deriving DecidableEq, Repr

/-- What the ID stage yields (R333): the next ID/EX latch and whether IF and ID are held. -/
structure IdStage where
  next : Latch IdExSlot
  stall : Bool
  deriving DecidableEq, Repr

/-- The next values of the front of the pipeline (R340). -/
structure Front where
  ifId : Latch IfIdSlot
  idEx : Latch IdExSlot
  pc : Word
  pendingRedirect : Option Word
  deriving DecidableEq, Repr

/-- All counters start at 0 (R41, R115). -/
def CacheStats.zero : CacheStats :=
  { hits := 0, misses := 0, memReads := 0, memWrites := 0, writeBacks := 0, throughStores := 0, stallCycles := 0 }

/-- An invalid, clean line. Its other fields are never read while it is invalid (R41, U24); 0 and no data, DESIGN CHOICE. -/
def Line.invalid : Line := { tag := 0, valid := false, dirty := false, lastTick := 0, count := 0, data := [] }

/-- A cache after reset (R41): every line invalid and clean, tick and statistics 0. -/
def Cache.reset (c : CacheCfg) : Cache :=
  { sets := if c.enabled then List.replicate c.sets (List.replicate c.ways Line.invalid) else [],
    tick := 0, stats := CacheStats.zero }

/-- The machine right after reset with a configuration and a launch image in memory (R41, R401, R404). -/
def State.resetWith (cfg : Config) (image : Memory) : State :=
  { cfg := cfg, gpr := cfg.initGpr.set 0 0#32, pc := cfg.resetPc, hi := cfg.initHi, lo := cfg.initLo,
    badVAddr := cfg.initCp0.badVAddr, cp0Status := cfg.initCp0.status, cause := cfg.initCp0.cause, epc := cfg.initCp0.epc,
    mem := image, iCache := Cache.reset cfg.iCache, dCache := Cache.reset cfg.dCache, pendingTarget := none,
    ifId := .bubble, idEx := .bubble, exMem := .bubble, memWb := .bubble, pendingRedirect := none, exDelaySlot := false,
    run := .running, cycles := 0, events := [], draws := 0, symbols := [] }

/-- The machine right after reset with the configuration `Config.default` and nothing loaded (R41). -/
def State.reset : State := State.resetWith Config.default []

end Sys2Proof.Machine
end

