-- ==== Sys2Proof/WellFormed.lean ====
section
/-! DEFINITION. What is well formed. An instruction is well formed by its type: every field has its width (Syntax.lean, R152). A
configuration is checked by R6 and R61, one named check for each clause; a step of a machine whose configuration fails one is
refused (R6: "A model refuses an ill-formed configuration"). -/

namespace Sys2Proof

/-- The end of the address space (R60). -/
def addressSpace : Nat := 2 ^ 32

/-- R6: S, W and A of an enabled cache are at least 1. -/
def CacheCfg.geometryOk (c : CacheCfg) : Bool :=
  !c.enabled || (decide (1 ≤ c.sets) && decide (1 ≤ c.words) && decide (1 ≤ c.ways))

/-- R61: `0 ≤ lo < hi ≤ 2^32`, both multiples of 4. -/
def Range.boundsOk (r : Range) : Bool :=
  decide (r.lo < r.hi) && decide (r.hi ≤ addressSpace) && decide (r.lo % 4 = 0) && decide (r.hi % 4 = 0)

/-- R60, R61: two ranges share no address. -/
def Range.apart (r q : Range) : Bool := decide (r.hi ≤ q.lo) || decide (q.hi ≤ r.lo)

/-- R61: the ranges of a map are pairwise disjoint. -/
def rangesApart : List Range → Bool
  | [] => true
  | r :: rest => rest.all (r.apart ·) && rangesApart rest

/-- R6: the bounds of a range that is not in `UNCACHED` are multiples of `4·W` of an enabled cache. -/
def Range.blocksOk (c : CacheCfg) (r : Range) : Bool :=
  r.uncached || !c.enabled || (decide (r.lo % (4 * c.words) = 0) && decide (r.hi % (4 * c.words) = 0))

/-- R72: peripheral ranges "are never cached" (`UNCACHED` contains every range whose reads are not idempotent). -/
def Range.peripheralUncached (r : Range) : Bool :=
  match r.backend with
  | .ram => true
  | .peripheral _ => r.uncached

/-- A 32-bit address is a multiple of 4. -/
def aligned4 (a : Word) : Bool := decide (a.toNat % 4 = 0)

/-- R6: `HALT_ADDR`, if present, is a multiple of 4. -/
def haltAddrOk : Option Word → Bool
  | none => true
  | some a => aligned4 a

/-- R6 as a whole. -/
def Config.wellFormed (c : Config) : Bool :=
  c.iCache.geometryOk && c.dCache.geometryOk && aligned4 c.resetPc && haltAddrOk c.haltAddr &&
  c.map.all (·.boundsOk) && rangesApart c.map &&
  c.map.all (fun r => r.blocksOk c.iCache && r.blocksOk c.dCache) && c.map.all (·.peripheralUncached)

end Sys2Proof
end

