-- ==== Sys2Proof/Machine/Memory.lean ====
section
/-! DEFINITION. The bytes of memory and the accesses wider than a byte, built from them in one place (20_memory.md R64, R69), and the
address map (R61, R62). The list of bytes is kept in one canonical form, `Memory.wf`. -/

namespace Sys2Proof.Machine

/-- What a byte that is not listed reads as: "Reads from never-written pages return 0" (R69). -/
def unwrittenByte : Byte := 0#8

/-- The canonical form above a bound: addresses strictly rising from it, below 2^32, no byte equal to `unwrittenByte`. -/
def Memory.wfFrom : Nat → Memory → Bool
  | _, [] => true
  | n, (k, v) :: rest => decide (n ≤ k) && decide (k < addressSpace) && decide (v ≠ unwrittenByte) && Memory.wfFrom (k + 1) rest

/-- The canonical form of memory: equal memories are equal lists. -/
def Memory.wf (m : Memory) : Bool := Memory.wfFrom 0 m

/-- The byte listed at a key, or `unwrittenByte`. -/
def Memory.lookup (k : Nat) : Memory → Byte
  | [] => unwrittenByte
  | (k', v) :: rest => if k < k' then unwrittenByte else if k = k' then v else Memory.lookup k rest

/-- Memory with the byte at a key replaced, in canonical form. -/
def Memory.insert (k : Nat) (b : Byte) : Memory → Memory
  | [] => if b = unwrittenByte then [] else [(k, b)]
  | (k', v) :: rest =>
    if k < k' then (if b = unwrittenByte then (k', v) :: rest else (k, b) :: (k', v) :: rest)
    else if k = k' then (if b = unwrittenByte then rest else (k, b) :: rest)
    else (k', v) :: Memory.insert k b rest

/-- One byte (R69). -/
def Memory.byte (m : Memory) (a : Word) : Byte := Memory.lookup a.toNat m

/-- One byte written (R69). -/
def Memory.setByte (m : Memory) (a : Word) (b : Byte) : Memory := Memory.insert a.toNat b m

/-- A word at a multiple of 4: `byte(a) ‖ byte(a+1) ‖ byte(a+2) ‖ byte(a+3)` (R64). -/
def Memory.word (m : Memory) (a : Word) : Word := wordOfBytes (m.byte a) (m.byte (a + 1#32)) (m.byte (a + 2#32)) (m.byte (a + 3#32))

/-- A word written at a multiple of 4 (R64). -/
def Memory.setWord (m : Memory) (a : Word) (v : Word) : Memory :=
  (((m.setByte a (byteOfWord v 0)).setByte (a + 1#32) (byteOfWord v 1)).setByte (a + 2#32) (byteOfWord v 2)).setByte
    (a + 3#32) (byteOfWord v 3)

/-- The value of an access of width `n` at an address aligned to it, in the low bits of a word (R64, R69). -/
def Memory.read (m : Memory) (a : Word) : Width → Word
  | .byte => (m.byte a).setWidth 32
  | .half => ((m.byte a) ++ (m.byte (a + 1#32))).setWidth 32
  | .word => m.word a

/-- The low bits of `v` written with width `n` at an address aligned to it (R64, R67). -/
def Memory.write (m : Memory) (a : Word) (v : Word) : Width → Memory
  | .byte => m.setByte a (byteOfWord v 3)
  | .half => (m.setByte a (byteOfWord v 2)).setByte (a + 1#32) (byteOfWord v 3)
  | .word => m.setWord a v

/-- The `n` words from an address up, as a burst reads them (R104). -/
def Memory.readBurst (m : Memory) (a : Word) : Nat → List Word
  | 0 => []
  | n + 1 => m.word a :: m.readBurst (a + 4#32) n

/-- Words written from an address up, as a burst writes them (R104). -/
def Memory.writeBurst (m : Memory) (a : Word) : List Word → Memory
  | [] => m
  | w :: rest => (m.setWord a w).writeBurst (a + 4#32) rest

/-- The number of bytes of an access (R63, R74). -/
def widthBytes : Width → Nat
  | .byte => 1
  | .half => 2
  | .word => 4

/-- R65: an access of `n` bytes is aligned when its address is a multiple of `n`. -/
def alignedTo (a : Word) (n : Width) : Bool := decide (a.toNat % widthBytes n = 0)

/-- The address of the word that contains an address: `addr - addr mod 4` (R66). -/
def wordBase (a : Word) : Word := a &&& 0xfffffffc#32

/-- The bytes of the word `w` at `addr - addr mod 4` that an access of width `n` at `addr` selects (R66). -/
def selectBytes (w : Word) (a : Word) : Width → Word
  | .byte => (byteOfWord w (a.toNat % 4)).setWidth 32
  | .half => (if a.toNat % 4 = 0 then w.extractLsb' 16 16 else w.extractLsb' 0 16).setWidth 32
  | .word => w

/-- The word `d` with the bytes that an access of width `n` at `addr` selects replaced by the low bits of `v` (R110). -/
def mergeBytes (d : Word) (a : Word) (v : Word) : Width → Word
  | .byte =>
    wordOfBytes (if a.toNat % 4 = 0 then byteOfWord v 3 else byteOfWord d 0) (if a.toNat % 4 = 1 then byteOfWord v 3 else byteOfWord d 1)
      (if a.toNat % 4 = 2 then byteOfWord v 3 else byteOfWord d 2) (if a.toNat % 4 = 3 then byteOfWord v 3 else byteOfWord d 3)
  | .half =>
    if a.toNat % 4 = 0 then v.extractLsb' 0 16 ++ d.extractLsb' 0 16 else d.extractLsb' 16 16 ++ v.extractLsb' 0 16
  | .word => v

/-- R62: whether an address lies in a range. -/
def Range.holds (r : Range) (a : Word) : Bool := decide (r.lo ≤ a.toNat) && decide (a.toNat < r.hi)

/-- R62: the offset `addr - lo` that the backend of a range sees. -/
def Range.offset (r : Range) (a : Word) : Nat := a.toNat - r.lo

/-- R62: the range of an address, or none. -/
def rangeIn (a : Word) : List Range → Option Range
  | [] => none
  | r :: rest => if Range.holds r a then some r else rangeIn a rest

/-- R62: `range_of(addr)` under the map of a configuration. -/
def rangeOf (c : Config) (a : Word) : Option Range := rangeIn a c.map

end Sys2Proof.Machine
end

