-- ==== Sys2Proof/Machine/Cache.lean ====
section
/-! DEFINITION. The L1 cache (21_cache.md): addressing (R102), block transfers (R104), the read (R105), the victim (R106), the
replacement metadata (R107), the write under each policy (R110 to R113), flush (R120), and the times of R124. A cache works on a
memory it is given; `cfg` is its configuration. -/

namespace Sys2Proof.Machine

/-- The byte size of a block, `4W` (R102). -/
def blockBytes (c : CacheCfg) : Nat := 4 * c.words

/-- R102: `offset = (a/4) mod W`. -/
def blockOffset (c : CacheCfg) (a : Word) : Nat := (a.toNat / 4) % c.words

/-- R102: `set = (a/(4W)) mod S`. -/
def setIndex (c : CacheCfg) (a : Word) : Nat := (a.toNat / (4 * c.words)) % c.sets

/-- R102: `tag = a/(4WS)`. -/
def tagIndex (c : CacheCfg) (a : Word) : Nat := a.toNat / (4 * c.words * c.sets)

/-- R102: `line_base(t, s) = (t·S + s)·W·4`. -/
def lineBase (c : CacheCfg) (t s : Nat) : Word := BitVec.ofNat 32 ((t * c.sets + s) * c.words * 4)

/-- The ways of a set (R103). -/
def Cache.ways (k : Cache) (s : Nat) : List Line := k.sets.getD s []

/-- The line of a set and a way. -/
def Cache.line (k : Cache) (s w : Nat) : Line := (k.ways s).getD w Line.invalid

/-- A cache with one line replaced. -/
def Cache.setLine (k : Cache) (s w : Nat) (l : Line) : Cache := { k with sets := k.sets.set s ((k.ways s).set w l) }

/-- R105: a line is hit by a tag when it is valid and has it. -/
def Line.hitBy (t : Nat) (l : Line) : Bool := l.valid && l.tag == t

/-- R105: the way of set `s` that is valid with tag `t`, the lowest. -/
def Cache.hitWay (k : Cache) (s t : Nat) : Option Nat := (k.ways s).findIdx? (Line.hitBy t)

/-- R107, on a hit: the line's tick becomes the access's, its count rises by 1. -/
def Line.touch (tick : Nat) (l : Line) : Line := { l with lastTick := tick, count := l.count + 1 }

/-- R106: the index of a line with the smallest key, the lowest index on a tie. -/
def minWay (key : Line → Nat) : List Line → Nat
  | [] => 0
  | l :: rest =>
    match rest with
    | [] => 0
    | l' :: rest' =>
      let j := minWay key (l' :: rest')
      if key l ≤ key ((l' :: rest').getD j l) then 0 else j + 1

/-- R106: the victim of a set: the invalid way of lowest index, else the way the policy chooses. -/
def Cache.victim (c : CacheCfg) (side : CacheSide) (k : Cache) (s : Nat) : Nat :=
  match (k.ways s).findIdx? (fun l => !l.valid) with
  | some w => w
  | none =>
    match c.replacement with
    | .lru => minWay (·.lastTick) (k.ways s)
    | .lfu => minWay (·.count) (k.ways s)
    | .rand => Config.randChoice side k.tick % c.ways

/-- R104, R107: the line filled with tag `t` from memory: `W` words, valid, clean, the access's tick, count 0. -/
def filledLine (c : CacheCfg) (m : Memory) (tick t s : Nat) : Line :=
  { tag := t, valid := true, dirty := false, lastTick := tick, count := 0, data := m.readBurst (lineBase c t s) c.words }

/-- R104: memory after the write-back of a line of set `s`. -/
def writeBackLine (c : CacheCfg) (m : Memory) (s : Nat) (l : Line) : Memory := m.writeBurst (lineBase c l.tag s) l.data

/-- R105, R111: a line must be written back before it is replaced when it is valid and dirty. -/
def Line.owed (l : Line) : Bool := l.valid && l.dirty

/-- R104: the statistics after a write-back. -/
def CacheStats.countWriteBack (t : CacheStats) : CacheStats :=
  { t with memWrites := t.memWrites + 1, writeBacks := t.writeBacks + 1 }

/-- R104: the statistics after a fill. -/
def CacheStats.countFill (t : CacheStats) : CacheStats := { t with memReads := t.memReads + 1 }

/-- R112, R113: the statistics after a single write-through store. -/
def CacheStats.countThrough (t : CacheStats) : CacheStats :=
  { t with memWrites := t.memWrites + 1, throughStores := t.throughStores + 1 }

/-- R105, R110: the statistics after a hit. -/
def CacheStats.countHit (t : CacheStats) : CacheStats := { t with hits := t.hits + 1 }

/-- R105, R110, R307: the statistics after a miss, `stall_cycles` raised by the penalty that R124 does not fix. -/
def CacheStats.countMiss (side : CacheSide) (tick : Nat) (t : CacheStats) : CacheStats :=
  { t with misses := t.misses + 1, stallCycles := t.stallCycles + Config.stallPenalty side tick }

/-- R103: the tick at the start of every call that reaches the cache. -/
def Cache.nextTick (k : Cache) : Cache := { k with tick := k.tick + 1 }

/-- A hit counted and its line's metadata updated (R105, R107). -/
def Cache.hit (k : Cache) (s w : Nat) : Cache :=
  let k' := k.setLine s w ((k.line s w).touch k.tick)
  { k' with stats := k'.stats.countHit }

/-- A miss counted (R105, R110). -/
def Cache.miss (side : CacheSide) (k : Cache) : Cache := { k with stats := k.stats.countMiss side k.tick }

/-- What a cache operation yields: the cache and the memory after it. -/
abbrev CacheMem := Cache × Memory

/-- R105, R111, R113: on a miss the victim `w` of set `s` is written back if it is valid and dirty, then filled with tag `t`. -/
def Cache.allocate (c : CacheCfg) (k : Cache) (m : Memory) (s t w : Nat) : CacheMem :=
  let old := k.line s w
  let m' := if old.owed then writeBackLine c m s old else m
  let stats := if old.owed then k.stats.countWriteBack else k.stats
  let k' := k.setLine s w (filledLine c m' k.tick t s)
  ({ k' with stats := stats.countFill }, m')

/-- R105: `read_word(a)`: the word, the cache and the memory after it. -/
def Cache.readWord (c : CacheCfg) (side : CacheSide) (k : Cache) (m : Memory) (a : Word) : Word × CacheMem :=
  let k := k.nextTick
  let s := setIndex c a
  let t := tagIndex c a
  match k.hitWay s t with
  | some w => ((k.line s w).data.getD (blockOffset c a) 0#32, (k.hit s w, m))
  | none =>
    let k := k.miss side
    let w := k.victim c side s
    let r := k.allocate c m s t w
    ((r.1.line s w).data.getD (blockOffset c a) 0#32, r)

/-- R110: the line with the bytes of a store merged into its word. -/
def Line.merge (c : CacheCfg) (a v : Word) (n : Width) (l : Line) : Line :=
  { l with data := l.data.set (blockOffset c a) (mergeBytes (l.data.getD (blockOffset c a) 0#32) a v n) }

/-- R111: the store under `WRITE-BACK`. -/
def Cache.writeBackStore (c : CacheCfg) (side : CacheSide) (k : Cache) (m : Memory) (a v : Word) (n : Width) : CacheMem :=
  let s := setIndex c a
  let t := tagIndex c a
  match k.hitWay s t with
  | some w =>
    let k := k.hit s w
    (k.setLine s w { (k.line s w).merge c a v n with dirty := true }, m)
  | none =>
    let k := k.miss side
    let w := k.victim c side s
    let r := k.allocate c m s t w
    (r.1.setLine s w { (r.1.line s w).merge c a v n with dirty := true }, r.2)

/-- R112: the store under `WRITE-THROUGH-NO-ALLOC`. -/
def Cache.throughNoAllocStore (c : CacheCfg) (side : CacheSide) (k : Cache) (m : Memory) (a v : Word) (n : Width) : CacheMem :=
  let s := setIndex c a
  let m' := m.write a v n
  match k.hitWay s (tagIndex c a) with
  | some w =>
    let k := k.hit s w
    let k := k.setLine s w ((k.line s w).merge c a v n)
    ({ k with stats := k.stats.countThrough }, m')
  | none =>
    let k := k.miss side
    ({ k with stats := k.stats.countThrough }, m')

/-- R113: the store under `WRITE-THROUGH-ALLOC`. -/
def Cache.throughAllocStore (c : CacheCfg) (side : CacheSide) (k : Cache) (m : Memory) (a v : Word) (n : Width) : CacheMem :=
  let s := setIndex c a
  let t := tagIndex c a
  match k.hitWay s t with
  | some w =>
    let k := k.hit s w
    let k := k.setLine s w ((k.line s w).merge c a v n)
    ({ k with stats := k.stats.countThrough }, m.write a v n)
  | none =>
    let k := k.miss side
    let w := k.victim c side s
    let r := k.allocate c m s t w
    let k := r.1.setLine s w ((r.1.line s w).merge c a v n)
    ({ k with stats := k.stats.countThrough }, r.2.write a v n)

/-- R110: `write(a, n, v)`: the cache and the memory after it. -/
def Cache.write (c : CacheCfg) (side : CacheSide) (k : Cache) (m : Memory) (a v : Word) (n : Width) : CacheMem :=
  match c.writePolicy with
  | .writeBack => k.nextTick.writeBackStore c side m a v n
  | .writeThroughNoAlloc => k.nextTick.throughNoAllocStore c side m a v n
  | .writeThroughAlloc => k.nextTick.throughAllocStore c side m a v n

/-- The word at `a` that the cache holds, if it holds it: no access, no effect. -/
def Cache.peek (c : CacheCfg) (k : Cache) (a : Word) : Option Word :=
  (k.hitWay (setIndex c a) (tagIndex c a)).map (fun w => (k.line (setIndex c a) w).data.getD (blockOffset c a) 0#32)

/-- R120: a line invalidated and cleaned. -/
def Line.drop (l : Line) : Line := { l with valid := false, dirty := false }

/-- R120: memory after the write-back of the dirty lines of one set. -/
def flushWays (c : CacheCfg) (s : Nat) (m : Memory) : List Line → Memory
  | [] => m
  | l :: rest => flushWays c s (if l.owed then writeBackLine c m s l else m) rest

/-- R120: memory after the write-back of the dirty lines of the sets from `s` up. -/
def flushSets (c : CacheCfg) (s : Nat) (m : Memory) : List (List Line) → Memory
  | [] => m
  | ways :: rest => flushSets c (s + 1) (flushWays c s m ways) rest

/-- R104, R120: the statistics after as many write-backs as there are dirty lines. -/
def CacheStats.countWriteBacks (n : Nat) (t : CacheStats) : CacheStats :=
  { t with memWrites := t.memWrites + n, writeBacks := t.writeBacks + n }

/-- R120: the number of lines that are valid and dirty. -/
def Cache.owedLines (k : Cache) : Nat := (k.sets.map (fun ways => ways.countP Line.owed)).sum

/-- R120: `cache_flush`: every dirty line written back, then every line invalid and clean. -/
def Cache.flush (c : CacheCfg) (k : Cache) (m : Memory) : CacheMem :=
  ({ k with sets := k.sets.map (fun ways => ways.map Line.drop), stats := k.stats.countWriteBacks k.owedLines },
   flushSets c 0 m k.sets)

/-- R124: what a fill, a write-back burst and a single write-through store cost in memory time. -/
def fillTime (g : Config) (c : CacheCfg) : Nat := g.memReadTime + (c.words - 1) * g.memBurstTime
def writeBackTime (g : Config) (c : CacheCfg) : Nat := g.memWriteTime + (c.words - 1) * g.memBurstTime

/-- R124: the total memory time of a cache's fills F, write-back bursts B and write-through stores T. -/
def memoryTime (g : Config) (c : CacheCfg) (t : CacheStats) : Nat :=
  t.memReads * fillTime g c + t.writeBacks * writeBackTime g c + t.throughStores * g.memWriteTime

end Sys2Proof.Machine
end

