-- ==== Sys2Proof/Machine/Ops.lean ====
section
/-! DEFINITION. The named operations over the state: registers and their change notifications (10_state.md R20 to R34), the accesses
of a core to memory (20_memory.md R63, R66 to R68), PC (50_core_single_cycle.md R303), taking a trap (60_exceptions.md R376), and the
commit of an instruction's effects (50_core_single_cycle.md R301, R302). There is no return from a trap to stand beside trap entry:
"There is no return-from-trap instruction" (R377). -/

namespace Sys2Proof.Machine

/-! General registers. -/

/-- R20, R21: general register `r`; register 0 reads as 0. -/
def State.x (s : State) (r : Reg) : Word := if r = 0#5 then 0#32 else s.gpr[r.toNat]'r.isLt

/-- R24: a change notification appended to those of the cycle. -/
def State.emit (e : Notification) (s : State) : State := { s with events := s.events ++ [e] }

/-- R21, R24: general register `r` written, with its notification; a write to register 0 is discarded and emits nothing. -/
def State.setX (r : Reg) (v : Word) (s : State) : State :=
  if r = 0#5 then s
  else { s with gpr := s.gpr.set r.toNat v r.isLt, events := s.events ++ [.register ⟨.gp, r.toNat, s.x r, v⟩] }

/-- A general register written if there is one to write and a value for it (R302, R328). -/
def State.setDest (dest : Option Reg) (v : Option Word) (s : State) : State :=
  match dest, v with
  | some r, some w => s.setX r w
  | _, _ => s

/-! HI, LO, PC and Coprocessor 0. -/

/-- R28, R24. -/
def State.setHi (v : Word) (s : State) : State := { s with hi := v, events := s.events ++ [.register ⟨.hi, 0, s.hi, v⟩] }

/-- R28, R24. -/
def State.setLo (v : Word) (s : State) : State := { s with lo := v, events := s.events ++ [.register ⟨.lo, 0, s.lo, v⟩] }

/-- R25, R24. -/
def State.setPc (v : Word) (s : State) : State := { s with pc := v, events := s.events ++ [.register ⟨.pc, 0, s.pc, v⟩] }

/-- R29: `CP0_SET`: the register that a pair `(rd, sel)` names, if any (R34). -/
def cp0Of (rd : Reg) (sel : Sel) : Option Cp0Reg :=
  if sel = 0#3 then
    if rd = 8#5 then some .badVAddr
    else if rd = 12#5 then some .status
    else if rd = 13#5 then some .cause
    else if rd = 14#5 then some .epc
    else none
  else none

/-- R29: the `rd` number of a Coprocessor 0 register. -/
def cp0Number : Cp0Reg → Nat
  | .badVAddr => 8
  | .status => 12
  | .cause => 13
  | .epc => 14

/-- R29: a Coprocessor 0 register read. -/
def State.cp0 (s : State) : Cp0Reg → Word
  | .badVAddr => s.badVAddr
  | .status => s.cp0Status
  | .cause => s.cause
  | .epc => s.epc

/-- R29 to R33: a Coprocessor 0 register written, all 32 bits, with its notification. -/
def State.setCp0 (c : Cp0Reg) (v : Word) (s : State) : State :=
  let ev := s.events ++ [.register ⟨.cp0, cp0Number c, s.cp0 c, v⟩]
  match c with
  | .badVAddr => { s with badVAddr := v, events := ev }
  | .status => { s with cp0Status := v, events := ev }
  | .cause => { s with cause := v, events := ev }
  | .epc => { s with epc := v, events := ev }

/-! Taking a trap. -/

/-- R371: the code of a trap kind; `unsupportedAlu` has none assigned. -/
def trapCode : TrapKind → Option (BitVec 5)
  | .unalignedAccess .load => some 4#5
  | .unalignedJump => some 4#5
  | .unalignedAccess .store => some 5#5
  | .busError .fetch => some 6#5
  | .busError .data => some 7#5
  | .syscall => some 8#5
  | .brk => some 9#5
  | .unsupportedInstruction => some 10#5
  | .overflow => some 12#5
  | .unsupportedAlu => none

/-- R370, R380: the letter of a trap kind for `--fail-match`. -/
def trapLetter : TrapKind → Option Char
  | .unsupportedInstruction => some 'I'
  | .unsupportedAlu => some 'A'
  | .overflow => some 'O'
  | .unalignedJump => some 'J'
  | .unalignedAccess _ => some 'J'
  | .busError _ => none
  | .syscall => none
  | .brk => none

/-- R31: `Cause[6:2] <- code`, every other bit kept. -/
def withExcCode (cause : Word) (code : BitVec 5) : Word := cause.extractLsb' 7 25 ++ code ++ cause.extractLsb' 0 2

/-- R31, R376: Cause after a trap of a kind. -/
def causeAfter (kind : TrapKind) (cause : Word) : Word :=
  match trapCode kind with
  | some c => withExcCode cause c
  | none => cause

/-- R33, R376: `BadVAddr <- a` if the kind has an address. -/
def State.latchBadVAddr (addr : Option Word) (s : State) : State :=
  match addr with
  | some a => s.setCp0 .badVAddr a
  | none => s

/-- R376: what trap entry records of the instruction at `pc` that takes a trap of kind `kind` with the optional address `addr`: EPC, Cause and
BadVAddr. -/
def State.recordTrap (pc : Word) (kind : TrapKind) (addr : Option Word) (s : State) : State :=
  let s := s.setCp0 .epc pc
  let s := s.setCp0 .cause (causeAfter kind s.cause)
  s.latchBadVAddr addr

/-- R376: TRAP ENTRY. The trap is recorded, PC is left at the instruction, the run status becomes `Trapped(kind)`, and nothing else
changes. -/
def State.takeTrap (pc : Word) (kind : TrapKind) (addr : Option Word) (s : State) : State :=
  { (s.recordTrap pc kind addr).setPc pc with run := .trapped kind }

/-- R376, R362: trap entry on the pipelined core, the same but for the order of the notifications: those of the record, which EX or MEM causes,
follow `before` and stand before those that the cycle has made in later stages, and the PC write of the commit is last
(notes/assumptions 15). -/
def State.stageTrap (before : List Notification) (pc : Word) (kind : TrapKind) (addr : Option Word) (s : State) : State :=
  let t := { s with events := before }.recordTrap pc kind addr
  { { t with events := t.events ++ s.events }.setPc pc with run := .trapped kind }

/-- R286, R306: the machine halts; PC stays. -/
def State.halt (s : State) : State := { s with run := .halted }

/-! Accesses to memory. -/

/-- R72, without `PERIPH`: a read from the peripheral `device` at `offset` is a draw of the access's width; a probe has no side effect. -/
def State.periphRead (src : AccessSource) (device offset : Nat) (n : Width) (s : State) : Word × State :=
  let v := Config.periphRead s.draws device offset n src
  let v := match n with
    | .byte => (v.extractLsb' 0 8).setWidth 32
    | .half => (v.extractLsb' 0 16).setWidth 32
    | .word => v
  (v, if src = .probe then s else { s with draws := s.draws + 1 })

/-- R72, without `PERIPH`: a write to the peripheral `device` at `offset`, from any source, has no effect the core can rely on
(notes/assumptions 8). -/
def State.periphWrite (_src : AccessSource) (_device _offset : Nat) (_n : Width) (_v : Word) (s : State) : State := s

/-- R62, R63, R69, R72: `read(addr, width, access_source)` of the backend of the range that holds `a`, RAM from the bytes `m`; a peripheral
sees the offset in its range. -/
def State.backendRead (src : AccessSource) (m : Memory) (r : Range) (a : Word) (n : Width) (s : State) : Word × State :=
  match r.backend with
  | .ram => (m.read a n, s)
  | .peripheral device => s.periphRead src device (Range.offset r a) n

/-- R62, R63, R67, R69, R72: `write(addr, width, value, access_source)` of the backend of the range that holds `a`. -/
def State.backendWrite (src : AccessSource) (r : Range) (a v : Word) (n : Width) (s : State) : State :=
  match r.backend with
  | .ram => { s with mem := s.mem.write a v n }
  | .peripheral device => s.periphWrite src device (Range.offset r a) n v

/-- R66: `MemRead(addr, n)`. -/
def State.memRead (a : Word) (n : Width) (s : State) : Access :=
  if alignedTo a n then
    match rangeOf s.cfg a with
    | none => .trap (.busError .data) a
    | some r =>
      if s.cfg.dCache.enabled && !r.uncached then
        let o := s.dCache.readWord s.cfg.dCache .data s.mem (wordBase a)
        .ok (selectBytes o.1 a n) { s with dCache := o.2.1, mem := o.2.2 }
      else
        let o := s.backendRead .cpu s.mem r a n
        .ok o.1 o.2
  else .trap (.unalignedAccess .load) a

/-- R67: `MemWrite(addr, n, v)`. -/
def State.memWrite (a v : Word) (n : Width) (s : State) : Stored :=
  if alignedTo a n then
    match rangeOf s.cfg a with
    | none => .trap (.busError .data) a
    | some r =>
      if s.cfg.dCache.enabled && !r.uncached then
        let o := s.dCache.write s.cfg.dCache .data s.mem a v n
        .ok { s with dCache := o.1, mem := o.2 }
      else .ok (s.backendWrite .cpu r a v n)
  else .trap (.unalignedAccess .store) a

/-- R68: `FetchWord(addr)`, at a multiple of 4, from the bytes `m`. The instruction cache "is only ever read; it never holds a dirty
line" (R101), so a fetch changes the cache and not memory. -/
def State.fetchWord (m : Memory) (a : Word) (s : State) : Access :=
  match rangeOf s.cfg a with
  | none => .trap (.busError .fetch) a
  | some r =>
    if s.cfg.iCache.enabled && !r.uncached then
      let o := s.iCache.readWord s.cfg.iCache .instruction m a
      .ok o.1 { s with iCache := o.2.1 }
    else
      let o := s.backendRead .cpu m r a .word
      .ok o.1 o.2

/-! Commit. -/

/-- R40, R24: the start of a cycle taken in status `Running`: the clock advances, and the cycle's notifications begin. -/
def State.beginCycle (s : State) : State := { s with cycles := s.cycles + 1, events := [] }

/-- HI, LO, a Coprocessor 0 register and the draw counter, as an instruction's effects say (R302, R330). -/
def State.applySpecial (e : Effects) (s : State) : State :=
  let s := match e.hi with
    | some v => s.setHi v
    | none => s
  let s := match e.lo with
    | some v => s.setLo v
    | none => s
  let s := match e.cp0 with
    | some (c, v) => s.setCp0 c v
    | none => s
  if e.drew then { s with draws := s.draws + 1 } else s

/-- R303: PC and `pending_target` after an instruction with the optional target `target`. -/
def State.updatePc (target : Option Word) (s : State) : State :=
  if s.cfg.delaySlot then
    { s.setPc (s.pendingTarget.getD (s.pc + 4#32)) with pendingTarget := target }
  else s.setPc (target.getD (s.pc + 4#32))

/-- The value a load of width `n` gives its register: the value read, sign-extended or zero-extended (R237 to R241, R332). -/
def extendLoad (n : Width) (signed : Bool) (v : Word) : Word :=
  match n with
  | .byte => if signed then (v.extractLsb' 0 8).signExtend 32 else (v.extractLsb' 0 8).setWidth 32
  | .half => if signed then (v.extractLsb' 0 16).signExtend 32 else (v.extractLsb' 0 16).setWidth 32
  | .word => v

/-- R301, R302: the single-cycle core's commit of an operation block's outcome: the register `dest` written, HI, LO, CP0, PC, or the
trap, the halt or the refusal. A trap commits nothing else. Its notifications are those of the write of memory and of the register
writes, PC last (R308); those of the fetch and the execution stand before it, in the step. -/
def commit (dest : Option Reg) (o : OpOut) (s : State) : StepResult :=
  match o with
  | .trap kind addr => .next (s.takeTrap s.pc kind addr)
  | .halt => .next s.halt
  | .refuse r => .refused r
  | .done e =>
    match e.memop with
    | none => .next (((s.setDest dest e.result).applySpecial e).updatePc e.target)
    | some (.load a n signed) =>
      match s.memRead a n with
      | .trap kind bad => .next (s.takeTrap s.pc kind (some bad))
      | .ok v s' => .next (((s'.setDest dest (some (extendLoad n signed v))).applySpecial e).updatePc e.target)
    | some (.store a n v) =>
      match s.memWrite a v n with
      | .trap kind bad => .next (s.takeTrap s.pc kind (some bad))
      | .ok s' => .next ((((s'.emit (.memory a n v)).setDest dest e.result).applySpecial e).updatePc e.target)

/-- R266, R302: the commit of one of the twelve control-transfer instructions; refused in the delay slot of a taken one. -/
def commitControl (dest : Option Reg) (o : OpOut) (s : State) : StepResult :=
  if s.cfg.delaySlot && s.pendingTarget.isSome then .refused .controlInDelaySlot else commit dest o s

end Sys2Proof.Machine
end

