-- ==== Sys2Proof/Machine/HostOps.lean ====
section
/-! DEFINITION. What the host does to the machine between cycles (20_memory.md R70 to R73, R77, 21_cache.md R120, R121,
70_reset_and_hazards.md R404, R412): cache maintenance, writes and probes of memory, the register interface, the symbol table, the
launch, and the placing of an instruction where the next step fetches. No step of the machine calls any of it. -/

namespace Sys2Proof.Machine

/-! Cache maintenance. -/

/-- R120: `cache_flush` of the data cache; a disabled cache holds nothing (R101). -/
def State.flushData (s : State) : State :=
  if s.cfg.dCache.enabled then
    let o := s.dCache.flush s.cfg.dCache s.mem
    { s with dCache := o.1, mem := o.2 }
  else s

/-- R120: `cache_flush` of the instruction cache. -/
def State.flushInstruction (s : State) : State :=
  if s.cfg.iCache.enabled then
    let o := s.iCache.flush s.cfg.iCache s.mem
    { s with iCache := o.1, mem := o.2 }
  else s

/-- R121: `cache_sync`, on both caches. -/
def State.cacheSync (s : State) : State := s.flushData.flushInstruction

/-! Memory. -/

/-- R70, R62, R63, R65, R69, R72: a write of width `n` from the source `src` of the host: straight to the backend, not through a cache. None where
the access fails: a misaligned or an unmapped address. -/
def State.hostWrite (src : AccessSource) (a v : Word) (n : Width) (s : State) : Option State :=
  if alignedTo a n then (rangeOf s.cfg a).map (fun r => s.backendWrite src r a v n) else none

/-- R63, R72, R83: a debugger probe of width `n`: it reads the backend and changes nothing. -/
def State.probe (a : Word) (n : Width) (s : State) : Option Word :=
  if alignedTo a n then (rangeOf s.cfg a).map (fun r => (s.backendRead .probe s.mem r a n).1) else none

/-- R70, R71: `write_range`: words written upward from an address; none at the first that fails. Its unit is the 32-bit word, at addresses that are
multiples of 4: no rule says whether it moves bytes or words (DESIGN CHOICE, notes/assumptions 22). R70 says that it writes RAM and not what
it does in a peripheral range: the peripheral gets the write as it gets any, without effect, and the range goes on as a success (DESIGN CHOICE,
notes/assumptions 22). The source of the accesses is the debugger's
(DESIGN CHOICE, notes/assumptions 27). A range that runs past 0xFFFFFFFF goes on at address 0: no rule says what it does (DESIGN CHOICE,
notes/assumptions 22). -/
def State.writeRange (a : Word) (s : State) : List Word → Option State
  | [] => some s
  | w :: rest =>
    match s.hostWrite .probe a w .word with
    | none => none
    | some s' => s'.writeRange (a + 4#32) rest

/-- R70, R71: `read_range`: `n` words upward from an address, the unit of `write_range` (DESIGN CHOICE, notes/assumptions 22); none at the first
that fails. A word in a peripheral range is read as a probe reads it (DESIGN CHOICE, notes/assumptions 22). Past 0xFFFFFFFF it goes on at address 0, as
`write_range` does (DESIGN CHOICE, notes/assumptions 22). -/
def State.readRange (a : Word) (s : State) : Nat → Option (List Word)
  | 0 => some []
  | n + 1 =>
    match s.probe a .word with
    | none => none
    | some w => (s.readRange (a + 4#32) n).map (fun ws => w :: ws)

/-- R71: load-range: the words of a file written from START, rounded down to 4; past 0xFFFFFFFF and in a peripheral range as
`write_range` (DESIGN CHOICE, notes/assumptions 22). -/
def State.loadRange (start : Word) (words : List Word) (s : State) : Option State := s.writeRange (wordBase start) words

/-! Registers. The host writes general registers, PC and Coprocessor 0, the three that R412 names before its ellipsis; it has no write of HI and
LO, of which R28 names only the reads (DESIGN CHOICE, notes/assumptions 22). -/

/-- R20, R412: `write_gp` by the host; there is none beside it for HI and LO (DESIGN CHOICE, notes/assumptions 22). -/
def State.hostWriteGp (r : Reg) (v : Word) (s : State) : State := s.setX r v

/-- R25, R412: `write_pc` by the host. -/
def State.hostWritePc (v : Word) (s : State) : State := s.setPc v

/-- R29, R412: `write_cp0` by the host; a pair that names no register changes nothing (R34). -/
def State.hostWriteCp0 (rd : Reg) (sel : Sel) (v : Word) (s : State) : State :=
  match cp0Of rd sel with
  | some c => s.setCp0 c v
  | none => s

/-- R29, R378: `read_cp0` by the host. -/
def State.hostReadCp0 (rd : Reg) (sel : Sel) (s : State) : Option Word := (cp0Of rd sel).map s.cp0

/-! The symbol table and the launch. -/

/-- R77: the value of a symbol. -/
def symbolValue (name : String) : List (String × Word) → Option Word
  | [] => none
  | (n, v) :: rest => if n = name then some v else symbolValue name rest

/-- R77: a symbol defined; none, the diagnostic, if it is defined already. -/
def defineSymbol (name : String) (v : Word) (t : List (String × Word)) : Option (List (String × Word)) :=
  match symbolValue name t with
  | some _ => none
  | none => some (t ++ [(name, v)])

/-- R77: the symbols of an image defined one after another, into the table `t`; none, the diagnostic, if a name is defined twice. -/
def defineSymbols (t : List (String × Word)) : List (String × Word) → Option (List (String × Word))
  | [] => some t
  | (name, v) :: rest =>
    match defineSymbol name v t with
    | none => none
    | some t' => defineSymbols t' rest

/-- R77: a symbol defined by the host between cycles; `HALT_ADDR` was fixed at the launch and stays. -/
def State.hostDefineSymbol (name : String) (v : Word) (s : State) : Option State :=
  (defineSymbol name v s.symbols).map (fun t => { s with symbols := t })

/-- R404: the configuration of a run of an image: `HALT_ADDR` is the symbol `_halt`, `RESET_PC` the image's entry. -/
def configForImage (c : Config) (symbols : List (String × Word)) (entry : Word) : Config :=
  { c with haltAddr := symbolValue "_halt" symbols, resetPc := entry }

/-- R404, R77: the machine as it is launched: reset, with an image in memory and the symbol table that its symbols fill; none where a symbol is
defined twice, the diagnostic (DEDUCED, notes/assumptions 24). -/
def State.launch (c : Config) (image : Memory) (symbols : List (String × Word)) (entry : Word) : Option State :=
  (defineSymbols [] symbols).map (fun t => { State.resetWith (configForImage c t entry) image with symbols := t })

/-! Placing an instruction. -/

/-- A halt address that would stop the machine before it fetches at `pc` is dropped (R306). -/
def withoutHaltAt (pc : Word) (c : Config) : Config := if c.haltAddr = some pc then { c with haltAddr := none } else c

/-- R70, R121, R404: the word `w` loaded where the next step fetches: both caches are synchronised, the word is written at PC, and
the machine is `Running`. -/
def State.placeFetchWord (w : Word) (s : State) : State :=
  let t := s.cacheSync
  { t with cfg := withoutHaltAt t.pc t.cfg, mem := t.mem.setWord t.pc w, run := .running }

end Sys2Proof.Machine
end

