-- ==== Sys2Proof/Machine/Flags.lean ====
section
/-! DEFINITION. The machine has no flag register (10_state.md R27). The conditions its instructions compute instead: signed overflow,
which raises a trap (40_arith_logic.md R200, R202, 44_immediate.md R271), and the comparisons, which write a register or decide a
branch (R208, R209, R277, R278, 43_control_flow.md R252 to R259). -/

namespace Sys2Proof.Machine

/-- An exact result lies outside the signed 32-bit range (R200). -/
def outOfRange (exact : Int) : Bool := decide (exact < -(2 ^ 31)) || decide (exact > 2 ^ 31 - 1)

/-- R200, R271: `s(a) + s(b)` over the integers leaves the signed range. -/
def addOverflows (a b : Word) : Bool := outOfRange (a.toInt + b.toInt)

/-- R202: `s(a) - s(b)` over the integers leaves the signed range. -/
def subOverflows (a b : Word) : Bool := outOfRange (a.toInt - b.toInt)

/-- R10: `a <s b`. -/
def lessSigned (a b : Word) : Bool := decide (a.toInt < b.toInt)

/-- R10: `a <u b`. -/
def lessUnsigned (a b : Word) : Bool := decide (a.toNat < b.toNat)

/-- R208: the word 1 or the word 0. -/
def wordOfBool (b : Bool) : Word := if b then 1#32 else 0#32

end Sys2Proof.Machine
end

