-- ==== Sys2Proof/Machine/Operands.lean ====
section
/-! DEFINITION. How operands are assembled (30_encoding.md R147), effective addresses (42_load_store.md R235), link values and targets
(43_control_flow.md R250, R251), and the register ports of every instruction (51_core_pipelined.md R326). -/

namespace Sys2Proof.Machine

/-- R147: the signed immediate, `sext_32(w[15:0])`. -/
def immS (imm : Imm) : Word := imm.signExtend 32

/-- R147: the logical immediate, `zext_32(w[15:0])`. -/
def immZ (imm : Imm) : Word := imm.setWidth 32

/-- R147: the upper immediate, `w[15:0] ‖ 0^16`. -/
def immUpper (imm : Imm) : Word := imm ++ 0#16

/-- R147: the variable shift amount, `x[rs][4:0]`. -/
def shiftAmount (v : Word) : Nat := (v.extractLsb' 0 5).toNat

/-- R235: the effective address, base plus signed offset, modulo 2^32. -/
def effectiveAddress (base : Word) (imm : Imm) : Word := base + immS imm

/-- R251: `pc + 4 + sext_32(w[15:0] ‖ 0^2)`. -/
def branchTarget (pc : Word) (imm : Imm) : Word := pc + 4#32 + (imm ++ 0#2).signExtend 32

/-- R251: `(pc + 4)[31:28] ‖ w[25:0] ‖ 0^2`. -/
def jumpTarget (pc : Word) (index : Index) : Word := (pc + 4#32).extractLsb' 28 4 ++ index ++ 0#2

/-- R250: `pc + 8` with a delay slot, `pc + 4` without. -/
def linkValue (delaySlot : Bool) (pc : Word) : Word := if delaySlot then pc + 8#32 else pc + 4#32

/-- The link register of JAL, BLTZAL and BGEZAL (R267). -/
def linkReg : Reg := 31#5

/-- R286: the register SYSCALL reads, `$v0`. -/
def syscallReg : Reg := 2#5

/-- R326: source port A. -/
def portA : Instr → Option Reg
  | .sll _ _ _ => none
  | .srl _ _ _ => none
  | .sra _ _ _ => none
  | .sllv _ _ rs => some rs
  | .srlv _ _ rs => some rs
  | .srav _ _ rs => some rs
  | .jr rs => some rs
  | .jalr _ rs => some rs
  | .syscall _ => some syscallReg
  | .brk _ => none
  | .mfhi _ => none
  | .mflo _ => none
  | .mthi rs => some rs
  | .mtlo rs => some rs
  | .mult rs _ => some rs
  | .multu rs _ => some rs
  | .div rs _ => some rs
  | .divu rs _ => some rs
  | .add _ rs _ => some rs
  | .addu _ rs _ => some rs
  | .sub _ rs _ => some rs
  | .subu _ rs _ => some rs
  | .and _ rs _ => some rs
  | .or _ rs _ => some rs
  | .xor _ rs _ => some rs
  | .nor _ rs _ => some rs
  | .slt _ rs _ => some rs
  | .sltu _ rs _ => some rs
  | .bltz rs _ => some rs
  | .bgez rs _ => some rs
  | .bltzal rs _ => some rs
  | .bgezal rs _ => some rs
  | .j _ => none
  | .jal _ => none
  | .beq rs _ _ => some rs
  | .bne rs _ _ => some rs
  | .blez rs _ => some rs
  | .bgtz rs _ => some rs
  | .addi _ rs _ => some rs
  | .addiu _ rs _ => some rs
  | .slti _ rs _ => some rs
  | .sltiu _ rs _ => some rs
  | .andi _ rs _ => some rs
  | .ori _ rs _ => some rs
  | .xori _ rs _ => some rs
  | .lui _ _ => none
  | .mfc0 _ _ _ => none
  | .mtc0 _ _ _ => none
  | .lb _ _ rs => some rs
  | .lh _ _ rs => some rs
  | .lw _ _ rs => some rs
  | .lbu _ _ rs => some rs
  | .lhu _ _ rs => some rs
  | .sb _ _ rs => some rs
  | .sh _ _ rs => some rs
  | .sw _ _ rs => some rs

/-- R326: source port B. -/
def portB : Instr → Option Reg
  | .sll _ rt _ => some rt
  | .srl _ rt _ => some rt
  | .sra _ rt _ => some rt
  | .sllv _ rt _ => some rt
  | .srlv _ rt _ => some rt
  | .srav _ rt _ => some rt
  | .jr _ => none
  | .jalr _ _ => none
  | .syscall _ => none
  | .brk _ => none
  | .mfhi _ => none
  | .mflo _ => none
  | .mthi _ => none
  | .mtlo _ => none
  | .mult _ rt => some rt
  | .multu _ rt => some rt
  | .div _ rt => some rt
  | .divu _ rt => some rt
  | .add _ _ rt => some rt
  | .addu _ _ rt => some rt
  | .sub _ _ rt => some rt
  | .subu _ _ rt => some rt
  | .and _ _ rt => some rt
  | .or _ _ rt => some rt
  | .xor _ _ rt => some rt
  | .nor _ _ rt => some rt
  | .slt _ _ rt => some rt
  | .sltu _ _ rt => some rt
  | .bltz _ _ => none
  | .bgez _ _ => none
  | .bltzal _ _ => none
  | .bgezal _ _ => none
  | .j _ => none
  | .jal _ => none
  | .beq _ rt _ => some rt
  | .bne _ rt _ => some rt
  | .blez _ _ => none
  | .bgtz _ _ => none
  | .addi _ _ _ => none
  | .addiu _ _ _ => none
  | .slti _ _ _ => none
  | .sltiu _ _ _ => none
  | .andi _ _ _ => none
  | .ori _ _ _ => none
  | .xori _ _ _ => none
  | .lui _ _ => none
  | .mfc0 _ _ _ => none
  | .mtc0 rt _ _ => some rt
  | .lb _ _ _ => none
  | .lh _ _ _ => none
  | .lw _ _ _ => none
  | .lbu _ _ _ => none
  | .lhu _ _ _ => none
  | .sb rt _ _ => some rt
  | .sh rt _ _ => some rt
  | .sw rt _ _ => some rt

/-- R326: the register written in WB. -/
def destOf : Instr → Option Reg
  | .sll rd _ _ => some rd
  | .srl rd _ _ => some rd
  | .sra rd _ _ => some rd
  | .sllv rd _ _ => some rd
  | .srlv rd _ _ => some rd
  | .srav rd _ _ => some rd
  | .jr _ => none
  | .jalr rd _ => some rd
  | .syscall _ => none
  | .brk _ => none
  | .mfhi rd => some rd
  | .mflo rd => some rd
  | .mthi _ => none
  | .mtlo _ => none
  | .mult _ _ => none
  | .multu _ _ => none
  | .div _ _ => none
  | .divu _ _ => none
  | .add rd _ _ => some rd
  | .addu rd _ _ => some rd
  | .sub rd _ _ => some rd
  | .subu rd _ _ => some rd
  | .and rd _ _ => some rd
  | .or rd _ _ => some rd
  | .xor rd _ _ => some rd
  | .nor rd _ _ => some rd
  | .slt rd _ _ => some rd
  | .sltu rd _ _ => some rd
  | .bltz _ _ => none
  | .bgez _ _ => none
  | .bltzal _ _ => some linkReg
  | .bgezal _ _ => some linkReg
  | .j _ => none
  | .jal _ => some linkReg
  | .beq _ _ _ => none
  | .bne _ _ _ => none
  | .blez _ _ => none
  | .bgtz _ _ => none
  | .addi rt _ _ => some rt
  | .addiu rt _ _ => some rt
  | .slti rt _ _ => some rt
  | .sltiu rt _ _ => some rt
  | .andi rt _ _ => some rt
  | .ori rt _ _ => some rt
  | .xori rt _ _ => some rt
  | .lui rt _ => some rt
  | .mfc0 rt _ _ => some rt
  | .mtc0 _ _ _ => none
  | .lb rt _ _ => some rt
  | .lh rt _ _ => some rt
  | .lw rt _ _ => some rt
  | .lbu rt _ _ => some rt
  | .lhu rt _ _ => some rt
  | .sb _ _ _ => none
  | .sh _ _ _ => none
  | .sw _ _ _ => none

/-- R326: an instruction "is a load" if it is one of LB, LBU, LH, LHU, LW. -/
def isLoad : Instr → Bool
  | .sll _ _ _ => false
  | .srl _ _ _ => false
  | .sra _ _ _ => false
  | .sllv _ _ _ => false
  | .srlv _ _ _ => false
  | .srav _ _ _ => false
  | .jr _ => false
  | .jalr _ _ => false
  | .syscall _ => false
  | .brk _ => false
  | .mfhi _ => false
  | .mflo _ => false
  | .mthi _ => false
  | .mtlo _ => false
  | .mult _ _ => false
  | .multu _ _ => false
  | .div _ _ => false
  | .divu _ _ => false
  | .add _ _ _ => false
  | .addu _ _ _ => false
  | .sub _ _ _ => false
  | .subu _ _ _ => false
  | .and _ _ _ => false
  | .or _ _ _ => false
  | .xor _ _ _ => false
  | .nor _ _ _ => false
  | .slt _ _ _ => false
  | .sltu _ _ _ => false
  | .bltz _ _ => false
  | .bgez _ _ => false
  | .bltzal _ _ => false
  | .bgezal _ _ => false
  | .j _ => false
  | .jal _ => false
  | .beq _ _ _ => false
  | .bne _ _ _ => false
  | .blez _ _ => false
  | .bgtz _ _ => false
  | .addi _ _ _ => false
  | .addiu _ _ _ => false
  | .slti _ _ _ => false
  | .sltiu _ _ _ => false
  | .andi _ _ _ => false
  | .ori _ _ _ => false
  | .xori _ _ _ => false
  | .lui _ _ => false
  | .mfc0 _ _ _ => false
  | .mtc0 _ _ _ => false
  | .lb _ _ _ => true
  | .lh _ _ _ => true
  | .lw _ _ _ => true
  | .lbu _ _ _ => true
  | .lhu _ _ _ => true
  | .sb _ _ _ => false
  | .sh _ _ _ => false
  | .sw _ _ _ => false

/-- The twelve control-transfer instructions of 43_control_flow.md (R266). -/
def isControl : Instr → Bool
  | .sll _ _ _ => false
  | .srl _ _ _ => false
  | .sra _ _ _ => false
  | .sllv _ _ _ => false
  | .srlv _ _ _ => false
  | .srav _ _ _ => false
  | .jr _ => true
  | .jalr _ _ => true
  | .syscall _ => false
  | .brk _ => false
  | .mfhi _ => false
  | .mflo _ => false
  | .mthi _ => false
  | .mtlo _ => false
  | .mult _ _ => false
  | .multu _ _ => false
  | .div _ _ => false
  | .divu _ _ => false
  | .add _ _ _ => false
  | .addu _ _ _ => false
  | .sub _ _ _ => false
  | .subu _ _ _ => false
  | .and _ _ _ => false
  | .or _ _ _ => false
  | .xor _ _ _ => false
  | .nor _ _ _ => false
  | .slt _ _ _ => false
  | .sltu _ _ _ => false
  | .bltz _ _ => true
  | .bgez _ _ => true
  | .bltzal _ _ => true
  | .bgezal _ _ => true
  | .j _ => true
  | .jal _ => true
  | .beq _ _ _ => true
  | .bne _ _ _ => true
  | .blez _ _ => true
  | .bgtz _ _ => true
  | .addi _ _ _ => false
  | .addiu _ _ _ => false
  | .slti _ _ _ => false
  | .sltiu _ _ _ => false
  | .andi _ _ _ => false
  | .ori _ _ _ => false
  | .xori _ _ _ => false
  | .lui _ _ => false
  | .mfc0 _ _ _ => false
  | .mtc0 _ _ _ => false
  | .lb _ _ _ => false
  | .lh _ _ _ => false
  | .lw _ _ _ => false
  | .lbu _ _ _ => false
  | .lhu _ _ _ => false
  | .sb _ _ _ => false
  | .sh _ _ _ => false
  | .sw _ _ _ => false

/-- A register as a hazard sees it: register 0 counts as none (R326). -/
def nonzero (r : Option Reg) : List Reg :=
  match r with
  | some r => if r = 0#5 then [] else [r]
  | none => []

/-- R326: `srcs(instr)`, the non-zero registers of ports A and B. -/
def srcs (i : Instr) : List Reg := nonzero (portA i) ++ nonzero (portB i)

/-- The value a port reads from the register file, 0 for an absent port (R333). -/
def State.port (s : State) (r : Option Reg) : Word :=
  match r with
  | some r => s.x r
  | none => 0#32

end Sys2Proof.Machine
end

