-- ==== Sys2Proof/Machine/Arith.lean ====
section
/-! DEFINITION. The sixteen register arithmetic, logic, comparison and shift instructions (40_arith_logic.md R200 to R216). For each, the
operation block (`op…`, on operand values, shared by both cores, R302, R330) and the meaning on the single-cycle core (`exec…`). -/

namespace Sys2Proof.Machine

/-- An operation block that only yields a value for the destination register. -/
def yields (v : Word) : OpOut := .done { result := some v }

/-- R200. -/
def opAdd (a b : Word) : OpOut := if addOverflows a b then .trap .overflow none else yields (a + b)
/-- R201. -/
def opAddu (a b : Word) : OpOut := yields (a + b)
/-- R202. -/
def opSub (a b : Word) : OpOut := if subOverflows a b then .trap .overflow none else yields (a - b)
/-- R203. -/
def opSubu (a b : Word) : OpOut := yields (a - b)
/-- R204. -/
def opAnd (a b : Word) : OpOut := yields (a &&& b)
/-- R205. -/
def opOr (a b : Word) : OpOut := yields (a ||| b)
/-- R206. -/
def opXor (a b : Word) : OpOut := yields (a ^^^ b)
/-- R207. -/
def opNor (a b : Word) : OpOut := yields (~~~(a ||| b))
/-- R208. -/
def opSlt (a b : Word) : OpOut := yields (wordOfBool (lessSigned a b))
/-- R209. -/
def opSltu (a b : Word) : OpOut := yields (wordOfBool (lessUnsigned a b))
/-- R210. -/
def opSll (b : Word) (shamt : BitVec 5) : OpOut := yields (b <<< shamt.toNat)
/-- R211. -/
def opSrl (b : Word) (shamt : BitVec 5) : OpOut := yields (b >>> shamt.toNat)
/-- R212. -/
def opSra (b : Word) (shamt : BitVec 5) : OpOut := yields (b.sshiftRight shamt.toNat)
/-- R213: the value shifted is port B (`rt`), the amount port A (`rs`). -/
def opSllv (a b : Word) : OpOut := yields (b <<< shiftAmount a)
/-- R214. -/
def opSrlv (a b : Word) : OpOut := yields (b >>> shiftAmount a)
/-- R215. -/
def opSrav (a b : Word) : OpOut := yields (b.sshiftRight (shiftAmount a))

/-- R200, ADD. -/
def execAdd (rd rs rt : Reg) (s : State) : StepResult := commit (some rd) (opAdd (s.x rs) (s.x rt)) s
/-- R201, ADDU. -/
def execAddu (rd rs rt : Reg) (s : State) : StepResult := commit (some rd) (opAddu (s.x rs) (s.x rt)) s
/-- R202, SUB. -/
def execSub (rd rs rt : Reg) (s : State) : StepResult := commit (some rd) (opSub (s.x rs) (s.x rt)) s
/-- R203, SUBU. -/
def execSubu (rd rs rt : Reg) (s : State) : StepResult := commit (some rd) (opSubu (s.x rs) (s.x rt)) s
/-- R204, AND. -/
def execAnd (rd rs rt : Reg) (s : State) : StepResult := commit (some rd) (opAnd (s.x rs) (s.x rt)) s
/-- R205, OR. -/
def execOr (rd rs rt : Reg) (s : State) : StepResult := commit (some rd) (opOr (s.x rs) (s.x rt)) s
/-- R206, XOR. -/
def execXor (rd rs rt : Reg) (s : State) : StepResult := commit (some rd) (opXor (s.x rs) (s.x rt)) s
/-- R207, NOR. -/
def execNor (rd rs rt : Reg) (s : State) : StepResult := commit (some rd) (opNor (s.x rs) (s.x rt)) s
/-- R208, SLT. -/
def execSlt (rd rs rt : Reg) (s : State) : StepResult := commit (some rd) (opSlt (s.x rs) (s.x rt)) s
/-- R209, SLTU. -/
def execSltu (rd rs rt : Reg) (s : State) : StepResult := commit (some rd) (opSltu (s.x rs) (s.x rt)) s
/-- R210, SLL. -/
def execSll (rd rt : Reg) (shamt : BitVec 5) (s : State) : StepResult := commit (some rd) (opSll (s.x rt) shamt) s
/-- R211, SRL. -/
def execSrl (rd rt : Reg) (shamt : BitVec 5) (s : State) : StepResult := commit (some rd) (opSrl (s.x rt) shamt) s
/-- R212, SRA. -/
def execSra (rd rt : Reg) (shamt : BitVec 5) (s : State) : StepResult := commit (some rd) (opSra (s.x rt) shamt) s
/-- R213, SLLV. -/
def execSllv (rd rt rs : Reg) (s : State) : StepResult := commit (some rd) (opSllv (s.x rs) (s.x rt)) s
/-- R214, SRLV. -/
def execSrlv (rd rt rs : Reg) (s : State) : StepResult := commit (some rd) (opSrlv (s.x rs) (s.x rt)) s
/-- R215, SRAV. -/
def execSrav (rd rt rs : Reg) (s : State) : StepResult := commit (some rd) (opSrav (s.x rs) (s.x rt)) s

end Sys2Proof.Machine
end

