-- ==== Sys2Proof/Machine/Control.lean ====
section
/-! DEFINITION. The twelve branch and jump instructions (43_control_flow.md R250 to R267): operation blocks and meanings. `ds` is
`delay_slot`; `pc` is the address of the instruction. What a target does to PC is `State.updatePc` (50_core_single_cycle.md R303). -/

namespace Sys2Proof.Machine

/-- R265: `if cond then pc <- target`. -/
def branches (cond : Bool) (target : Word) : OpOut := .done { target := if cond then some target else none }

/-- R258: the link written whether or not the branch is taken. -/
def branchesAndLinks (ds : Bool) (pc : Word) (cond : Bool) (target : Word) : OpOut :=
  .done { result := some (linkValue ds pc), target := if cond then some target else none }

/-- R263: a register jump's target must be a multiple of 4. -/
def targetAligned (t : Word) : Bool := decide (t.extractLsb' 0 2 = 0#2)

/-- R252. -/
def opBeq (a b pc : Word) (imm : Imm) : OpOut := branches (decide (a = b)) (branchTarget pc imm)
/-- R253. -/
def opBne (a b pc : Word) (imm : Imm) : OpOut := branches (decide (a ≠ b)) (branchTarget pc imm)
/-- R254. -/
def opBlez (a pc : Word) (imm : Imm) : OpOut := branches (decide (a.toInt ≤ 0)) (branchTarget pc imm)
/-- R255. -/
def opBgtz (a pc : Word) (imm : Imm) : OpOut := branches (decide (a.toInt > 0)) (branchTarget pc imm)
/-- R256. -/
def opBltz (a pc : Word) (imm : Imm) : OpOut := branches (decide (a.toInt < 0)) (branchTarget pc imm)
/-- R257. -/
def opBgez (a pc : Word) (imm : Imm) : OpOut := branches (decide (a.toInt ≥ 0)) (branchTarget pc imm)
/-- R258. -/
def opBltzal (ds : Bool) (a pc : Word) (imm : Imm) : OpOut := branchesAndLinks ds pc (decide (a.toInt < 0)) (branchTarget pc imm)
/-- R259. -/
def opBgezal (ds : Bool) (a pc : Word) (imm : Imm) : OpOut := branchesAndLinks ds pc (decide (a.toInt ≥ 0)) (branchTarget pc imm)
/-- R260. -/
def opJ (pc : Word) (index : Index) : OpOut := branches true (jumpTarget pc index)
/-- R261. -/
def opJal (ds : Bool) (pc : Word) (index : Index) : OpOut := branchesAndLinks ds pc true (jumpTarget pc index)
/-- R262, R263. -/
def opJr (a : Word) : OpOut := if targetAligned a then branches true a else .trap .unalignedJump (some a)
/-- R264, R263. -/
def opJalr (ds : Bool) (a pc : Word) : OpOut :=
  if targetAligned a then branchesAndLinks ds pc true a else .trap .unalignedJump (some a)

/-- R262, JR. -/
def execJr (rs : Reg) (s : State) : StepResult := commitControl none (opJr (s.x rs)) s
/-- R264, JALR. -/
def execJalr (rd rs : Reg) (s : State) : StepResult := commitControl (some rd) (opJalr s.cfg.delaySlot (s.x rs) s.pc) s
/-- R256, BLTZ. -/
def execBltz (rs : Reg) (imm : Imm) (s : State) : StepResult := commitControl none (opBltz (s.x rs) s.pc imm) s
/-- R257, BGEZ. -/
def execBgez (rs : Reg) (imm : Imm) (s : State) : StepResult := commitControl none (opBgez (s.x rs) s.pc imm) s
/-- R258, BLTZAL. -/
def execBltzal (rs : Reg) (imm : Imm) (s : State) : StepResult :=
  commitControl (some linkReg) (opBltzal s.cfg.delaySlot (s.x rs) s.pc imm) s
/-- R259, BGEZAL. -/
def execBgezal (rs : Reg) (imm : Imm) (s : State) : StepResult :=
  commitControl (some linkReg) (opBgezal s.cfg.delaySlot (s.x rs) s.pc imm) s
/-- R260, J. -/
def execJ (index : Index) (s : State) : StepResult := commitControl none (opJ s.pc index) s
/-- R261, JAL. -/
def execJal (index : Index) (s : State) : StepResult := commitControl (some linkReg) (opJal s.cfg.delaySlot s.pc index) s
/-- R252, BEQ. -/
def execBeq (rs rt : Reg) (imm : Imm) (s : State) : StepResult := commitControl none (opBeq (s.x rs) (s.x rt) s.pc imm) s
/-- R253, BNE. -/
def execBne (rs rt : Reg) (imm : Imm) (s : State) : StepResult := commitControl none (opBne (s.x rs) (s.x rt) s.pc imm) s
/-- R254, BLEZ. -/
def execBlez (rs : Reg) (imm : Imm) (s : State) : StepResult := commitControl none (opBlez (s.x rs) s.pc imm) s
/-- R255, BGTZ. -/
def execBgtz (rs : Reg) (imm : Imm) (s : State) : StepResult := commitControl none (opBgtz (s.x rs) s.pc imm) s

end Sys2Proof.Machine
end

