-- ==== Sys2Proof/Machine/Immediate.lean ====
section
/-! DEFINITION. The eight immediate instructions (44_immediate.md R270 to R278): operation blocks and meanings. -/

namespace Sys2Proof.Machine

/-- R271. -/
def opAddi (a : Word) (imm : Imm) : OpOut := if addOverflows a (immS imm) then .trap .overflow none else yields (a + immS imm)
/-- R272. -/
def opAddiu (a : Word) (imm : Imm) : OpOut := yields (a + immS imm)
/-- R277. -/
def opSlti (a : Word) (imm : Imm) : OpOut := yields (wordOfBool (lessSigned a (immS imm)))
/-- R278. -/
def opSltiu (a : Word) (imm : Imm) : OpOut := yields (wordOfBool (lessUnsigned a (immS imm)))
/-- R273. -/
def opAndi (a : Word) (imm : Imm) : OpOut := yields (a &&& immZ imm)
/-- R274. -/
def opOri (a : Word) (imm : Imm) : OpOut := yields (a ||| immZ imm)
/-- R275. -/
def opXori (a : Word) (imm : Imm) : OpOut := yields (a ^^^ immZ imm)
/-- R276. -/
def opLui (imm : Imm) : OpOut := yields (immUpper imm)

/-- R271, ADDI. -/
def execAddi (rt rs : Reg) (imm : Imm) (s : State) : StepResult := commit (some rt) (opAddi (s.x rs) imm) s
/-- R272, ADDIU. -/
def execAddiu (rt rs : Reg) (imm : Imm) (s : State) : StepResult := commit (some rt) (opAddiu (s.x rs) imm) s
/-- R277, SLTI. -/
def execSlti (rt rs : Reg) (imm : Imm) (s : State) : StepResult := commit (some rt) (opSlti (s.x rs) imm) s
/-- R278, SLTIU. -/
def execSltiu (rt rs : Reg) (imm : Imm) (s : State) : StepResult := commit (some rt) (opSltiu (s.x rs) imm) s
/-- R273, ANDI. -/
def execAndi (rt rs : Reg) (imm : Imm) (s : State) : StepResult := commit (some rt) (opAndi (s.x rs) imm) s
/-- R274, ORI. -/
def execOri (rt rs : Reg) (imm : Imm) (s : State) : StepResult := commit (some rt) (opOri (s.x rs) imm) s
/-- R275, XORI. -/
def execXori (rt rs : Reg) (imm : Imm) (s : State) : StepResult := commit (some rt) (opXori (s.x rs) imm) s
/-- R276, LUI. -/
def execLui (rt : Reg) (imm : Imm) (s : State) : StepResult := commit (some rt) (opLui imm) s

end Sys2Proof.Machine
end

