-- ==== Sys2Proof/Machine/LoadStore.lean ====
section
/-! DEFINITION. The eight load and store instructions (42_load_store.md R235 to R244): operation blocks and meanings. The checks and
the access are `State.memRead` and `State.memWrite` (20_memory.md R66, R67). -/

namespace Sys2Proof.Machine

/-- R235, R332: a load of width `n` at the effective address. -/
def loads (n : Width) (signed : Bool) (base : Word) (imm : Imm) : OpOut :=
  .done { memop := some (.load (effectiveAddress base imm) n signed) }

/-- R242 to R244, R330 step 6: what a store of width `n` bytes takes of its register: the low `8n` bits. -/
def storeValue (n : Width) (v : Word) : Word :=
  match n with
  | .byte => (v.extractLsb' 0 8).setWidth 32
  | .half => (v.extractLsb' 0 16).setWidth 32
  | .word => v

/-- R235, R332: a store of width `n` at the effective address. -/
def stores (n : Width) (base v : Word) (imm : Imm) : OpOut :=
  .done { memop := some (.store (effectiveAddress base imm) n (storeValue n v)) }

/-- R237. -/
def opLb (a : Word) (imm : Imm) : OpOut := loads .byte true a imm
/-- R238. -/
def opLbu (a : Word) (imm : Imm) : OpOut := loads .byte false a imm
/-- R239. -/
def opLh (a : Word) (imm : Imm) : OpOut := loads .half true a imm
/-- R240. -/
def opLhu (a : Word) (imm : Imm) : OpOut := loads .half false a imm
/-- R241. -/
def opLw (a : Word) (imm : Imm) : OpOut := loads .word false a imm
/-- R242: `x[rt][7:0]`. -/
def opSb (a b : Word) (imm : Imm) : OpOut := stores .byte a b imm
/-- R243: `x[rt][15:0]`. -/
def opSh (a b : Word) (imm : Imm) : OpOut := stores .half a b imm
/-- R244. -/
def opSw (a b : Word) (imm : Imm) : OpOut := stores .word a b imm

/-- R237, LB. -/
def execLb (rt : Reg) (imm : Imm) (rs : Reg) (s : State) : StepResult := commit (some rt) (opLb (s.x rs) imm) s
/-- R239, LH. -/
def execLh (rt : Reg) (imm : Imm) (rs : Reg) (s : State) : StepResult := commit (some rt) (opLh (s.x rs) imm) s
/-- R241, LW. -/
def execLw (rt : Reg) (imm : Imm) (rs : Reg) (s : State) : StepResult := commit (some rt) (opLw (s.x rs) imm) s
/-- R238, LBU. -/
def execLbu (rt : Reg) (imm : Imm) (rs : Reg) (s : State) : StepResult := commit (some rt) (opLbu (s.x rs) imm) s
/-- R240, LHU. -/
def execLhu (rt : Reg) (imm : Imm) (rs : Reg) (s : State) : StepResult := commit (some rt) (opLhu (s.x rs) imm) s
/-- R242, SB. -/
def execSb (rt : Reg) (imm : Imm) (rs : Reg) (s : State) : StepResult := commit none (opSb (s.x rs) (s.x rt) imm) s
/-- R243, SH. -/
def execSh (rt : Reg) (imm : Imm) (rs : Reg) (s : State) : StepResult := commit none (opSh (s.x rs) (s.x rt) imm) s
/-- R244, SW. -/
def execSw (rt : Reg) (imm : Imm) (rs : Reg) (s : State) : StepResult := commit none (opSw (s.x rs) (s.x rt) imm) s

end Sys2Proof.Machine
end

