-- ==== Sys2Proof/Machine/MulDiv.lean ====
section
/-! DEFINITION. The eight multiply, divide and HI/LO move instructions (41_muldiv.md R220 to R229): operation blocks and meanings. -/

namespace Sys2Proof.Machine

/-- R229: HI and LO written, no general register. -/
def writesHiLo (hi lo : Word) : OpOut := .done { hi := some hi, lo := some lo }

/-- R221: a 64-bit product split into HI (bits 63:32) and LO (bits 31:0). -/
def splitProduct (p : BitVec 64) : OpOut := writesHiLo (p.extractLsb' 32 32) (p.extractLsb' 0 32)

/-- R221: the exact signed product modulo 2^64. -/
def opMult (a b : Word) : OpOut := splitProduct (BitVec.ofInt 64 (a.toInt * b.toInt))

/-- R222: the exact unsigned product. -/
def opMultu (a b : Word) : OpOut := splitProduct (BitVec.ofNat 64 (a.toNat * b.toNat))

/-- R223, R224: a division by zero takes its HI and LO from the draw of that number: any pair of words. -/
def dividesByZero (draws : Nat) : OpOut :=
  .done { hi := some (Config.div0Result draws).1, lo := some (Config.div0Result draws).2, drew := true }

/-- R223: the signed quotient rounded toward zero in LO, the remainder `n - q·d` in HI. -/
def opDiv (a b : Word) (draws : Nat) : OpOut :=
  if b.toInt = 0 then dividesByZero draws
  else
    let q := a.toInt.tdiv b.toInt
    writesHiLo (BitVec.ofInt 32 (a.toInt - q * b.toInt)) (BitVec.ofInt 32 q)

/-- R224: the unsigned quotient in LO, the remainder in HI. -/
def opDivu (a b : Word) (draws : Nat) : OpOut :=
  if b.toNat = 0 then dividesByZero draws
  else writesHiLo (BitVec.ofNat 32 (a.toNat % b.toNat)) (BitVec.ofNat 32 (a.toNat / b.toNat))

/-- R225. -/
def opMfhi (hi : Word) : OpOut := yields hi
/-- R226. -/
def opMflo (lo : Word) : OpOut := yields lo
/-- R227: LO is unchanged. -/
def opMthi (a : Word) : OpOut := .done { hi := some a }
/-- R228: HI is unchanged. -/
def opMtlo (a : Word) : OpOut := .done { lo := some a }

/-- R221, MULT. -/
def execMult (rs rt : Reg) (s : State) : StepResult := commit none (opMult (s.x rs) (s.x rt)) s
/-- R222, MULTU. -/
def execMultu (rs rt : Reg) (s : State) : StepResult := commit none (opMultu (s.x rs) (s.x rt)) s
/-- R223, DIV. -/
def execDiv (rs rt : Reg) (s : State) : StepResult := commit none (opDiv (s.x rs) (s.x rt) s.draws) s
/-- R224, DIVU. -/
def execDivu (rs rt : Reg) (s : State) : StepResult := commit none (opDivu (s.x rs) (s.x rt) s.draws) s
/-- R225, MFHI. -/
def execMfhi (rd : Reg) (s : State) : StepResult := commit (some rd) (opMfhi s.hi) s
/-- R226, MFLO. -/
def execMflo (rd : Reg) (s : State) : StepResult := commit (some rd) (opMflo s.lo) s
/-- R227, MTHI. -/
def execMthi (rs : Reg) (s : State) : StepResult := commit none (opMthi (s.x rs)) s
/-- R228, MTLO. -/
def execMtlo (rs : Reg) (s : State) : StepResult := commit none (opMtlo (s.x rs)) s

end Sys2Proof.Machine
end

