-- ==== Sys2Proof/Machine/System.lean ====
section
/-! DEFINITION. SYSCALL, BREAK, MFC0 and MTC0 (45_system_cp0.md R285 to R289): operation blocks and meanings. None is privileged. -/

namespace Sys2Proof.Machine

/-- R286: the value of `$v0` that halts. -/
def haltService : Word := 10#32

/-- R286: `if x[2] = 10 then halt else raise Syscall`. -/
def opSyscall (a : Word) : OpOut := if a = haltService then .halt else .trap .syscall none
/-- R287: `raise Break`. -/
def opBreak : OpOut := .trap .brk none
/-- R288: the register that the pair names; a pair outside `CP0_SET` is refused (R34). -/
def opMfc0 (rd : Reg) (sel : Sel) (s : State) : OpOut :=
  match cp0Of rd sel with
  | some c => yields (s.cp0 c)
  | none => .refuse (.cp0NotImplemented rd sel)
/-- R289: all 32 bits written; a pair outside `CP0_SET` is refused (R34). -/
def opMtc0 (rd : Reg) (sel : Sel) (b : Word) : OpOut :=
  match cp0Of rd sel with
  | some c => .done { cp0 := some (c, b) }
  | none => .refuse (.cp0NotImplemented rd sel)

/-- R286, SYSCALL; the code field is ignored. -/
def execSyscall (_code : Code) (s : State) : StepResult := commit none (opSyscall (s.x syscallReg)) s
/-- R287, BREAK; the code field is ignored. -/
def execBreak (_code : Code) (s : State) : StepResult := commit none opBreak s
/-- R288, MFC0. -/
def execMfc0 (rt rd : Reg) (sel : Sel) (s : State) : StepResult := commit (some rt) (opMfc0 rd sel s) s
/-- R289, MTC0. -/
def execMtc0 (rt rd : Reg) (sel : Sel) (s : State) : StepResult := commit none (opMtc0 rd sel (s.x rt)) s

end Sys2Proof.Machine
end

