-- ==== Sys2Proof/Machine/Operate.lean ====
section
/-! DEFINITION. The operation block of an instruction on the values of its ports, as the EX stage of the pipelined core runs it
(51_core_pipelined.md R330 step 5): the same block that the single-cycle core's meaning of the instruction commits. -/

namespace Sys2Proof.Machine

/-- R330: the operation block of an instruction at `pc` on port values `a`, `b` and the current HI, LO and CP0. -/
def operate (i : Instr) (a b pc : Word) (s : State) : OpOut :=
  match i with
  | .sll _ _ shamt => opSll b shamt
  | .srl _ _ shamt => opSrl b shamt
  | .sra _ _ shamt => opSra b shamt
  | .sllv _ _ _ => opSllv a b
  | .srlv _ _ _ => opSrlv a b
  | .srav _ _ _ => opSrav a b
  | .jr _ => opJr a
  | .jalr _ _ => opJalr s.cfg.delaySlot a pc
  | .syscall _ => opSyscall a
  | .brk _ => opBreak
  | .mfhi _ => opMfhi s.hi
  | .mflo _ => opMflo s.lo
  | .mthi _ => opMthi a
  | .mtlo _ => opMtlo a
  | .mult _ _ => opMult a b
  | .multu _ _ => opMultu a b
  | .div _ _ => opDiv a b s.draws
  | .divu _ _ => opDivu a b s.draws
  | .add _ _ _ => opAdd a b
  | .addu _ _ _ => opAddu a b
  | .sub _ _ _ => opSub a b
  | .subu _ _ _ => opSubu a b
  | .and _ _ _ => opAnd a b
  | .or _ _ _ => opOr a b
  | .xor _ _ _ => opXor a b
  | .nor _ _ _ => opNor a b
  | .slt _ _ _ => opSlt a b
  | .sltu _ _ _ => opSltu a b
  | .bltz _ imm => opBltz a pc imm
  | .bgez _ imm => opBgez a pc imm
  | .bltzal _ imm => opBltzal s.cfg.delaySlot a pc imm
  | .bgezal _ imm => opBgezal s.cfg.delaySlot a pc imm
  | .j index => opJ pc index
  | .jal index => opJal s.cfg.delaySlot pc index
  | .beq _ _ imm => opBeq a b pc imm
  | .bne _ _ imm => opBne a b pc imm
  | .blez _ imm => opBlez a pc imm
  | .bgtz _ imm => opBgtz a pc imm
  | .addi _ _ imm => opAddi a imm
  | .addiu _ _ imm => opAddiu a imm
  | .slti _ _ imm => opSlti a imm
  | .sltiu _ _ imm => opSltiu a imm
  | .andi _ _ imm => opAndi a imm
  | .ori _ _ imm => opOri a imm
  | .xori _ _ imm => opXori a imm
  | .lui _ imm => opLui imm
  | .mfc0 _ rd sel => opMfc0 rd sel s
  | .mtc0 _ rd sel => opMtc0 rd sel b
  | .lb _ imm _ => opLb a imm
  | .lh _ imm _ => opLh a imm
  | .lw _ imm _ => opLw a imm
  | .lbu _ imm _ => opLbu a imm
  | .lhu _ imm _ => opLhu a imm
  | .sb _ imm _ => opSb a b imm
  | .sh _ imm _ => opSh a b imm
  | .sw _ imm _ => opSw a b imm

end Sys2Proof.Machine
end

