-- ==== Sys2Proof/Machine/Dispatch.lean ====
section
/-! DEFINITION. The dispatch: one arm per instruction of 30_encoding.md R146, each a call of its meaning on the single-cycle core. -/

namespace Sys2Proof.Machine

def exec (i : Instr) (s : State) : Host.Outcome State Fault Refusal :=
  match i with
  | .sll rd rt shamt => Sys2Proof.Machine.execSll rd rt shamt s
  | .srl rd rt shamt => Sys2Proof.Machine.execSrl rd rt shamt s
  | .sra rd rt shamt => Sys2Proof.Machine.execSra rd rt shamt s
  | .sllv rd rt rs => Sys2Proof.Machine.execSllv rd rt rs s
  | .srlv rd rt rs => Sys2Proof.Machine.execSrlv rd rt rs s
  | .srav rd rt rs => Sys2Proof.Machine.execSrav rd rt rs s
  | .jr rs => Sys2Proof.Machine.execJr rs s
  | .jalr rd rs => Sys2Proof.Machine.execJalr rd rs s
  | .syscall code => Sys2Proof.Machine.execSyscall code s
  | .brk code => Sys2Proof.Machine.execBreak code s
  | .mfhi rd => Sys2Proof.Machine.execMfhi rd s
  | .mflo rd => Sys2Proof.Machine.execMflo rd s
  | .mthi rs => Sys2Proof.Machine.execMthi rs s
  | .mtlo rs => Sys2Proof.Machine.execMtlo rs s
  | .mult rs rt => Sys2Proof.Machine.execMult rs rt s
  | .multu rs rt => Sys2Proof.Machine.execMultu rs rt s
  | .div rs rt => Sys2Proof.Machine.execDiv rs rt s
  | .divu rs rt => Sys2Proof.Machine.execDivu rs rt s
  | .add rd rs rt => Sys2Proof.Machine.execAdd rd rs rt s
  | .addu rd rs rt => Sys2Proof.Machine.execAddu rd rs rt s
  | .sub rd rs rt => Sys2Proof.Machine.execSub rd rs rt s
  | .subu rd rs rt => Sys2Proof.Machine.execSubu rd rs rt s
  | .and rd rs rt => Sys2Proof.Machine.execAnd rd rs rt s
  | .or rd rs rt => Sys2Proof.Machine.execOr rd rs rt s
  | .xor rd rs rt => Sys2Proof.Machine.execXor rd rs rt s
  | .nor rd rs rt => Sys2Proof.Machine.execNor rd rs rt s
  | .slt rd rs rt => Sys2Proof.Machine.execSlt rd rs rt s
  | .sltu rd rs rt => Sys2Proof.Machine.execSltu rd rs rt s
  | .bltz rs imm => Sys2Proof.Machine.execBltz rs imm s
  | .bgez rs imm => Sys2Proof.Machine.execBgez rs imm s
  | .bltzal rs imm => Sys2Proof.Machine.execBltzal rs imm s
  | .bgezal rs imm => Sys2Proof.Machine.execBgezal rs imm s
  | .j index => Sys2Proof.Machine.execJ index s
  | .jal index => Sys2Proof.Machine.execJal index s
  | .beq rs rt imm => Sys2Proof.Machine.execBeq rs rt imm s
  | .bne rs rt imm => Sys2Proof.Machine.execBne rs rt imm s
  | .blez rs imm => Sys2Proof.Machine.execBlez rs imm s
  | .bgtz rs imm => Sys2Proof.Machine.execBgtz rs imm s
  | .addi rt rs imm => Sys2Proof.Machine.execAddi rt rs imm s
  | .addiu rt rs imm => Sys2Proof.Machine.execAddiu rt rs imm s
  | .slti rt rs imm => Sys2Proof.Machine.execSlti rt rs imm s
  | .sltiu rt rs imm => Sys2Proof.Machine.execSltiu rt rs imm s
  | .andi rt rs imm => Sys2Proof.Machine.execAndi rt rs imm s
  | .ori rt rs imm => Sys2Proof.Machine.execOri rt rs imm s
  | .xori rt rs imm => Sys2Proof.Machine.execXori rt rs imm s
  | .lui rt imm => Sys2Proof.Machine.execLui rt imm s
  | .mfc0 rt rd sel => Sys2Proof.Machine.execMfc0 rt rd sel s
  | .mtc0 rt rd sel => Sys2Proof.Machine.execMtc0 rt rd sel s
  | .lb rt imm rs => Sys2Proof.Machine.execLb rt imm rs s
  | .lh rt imm rs => Sys2Proof.Machine.execLh rt imm rs s
  | .lw rt imm rs => Sys2Proof.Machine.execLw rt imm rs s
  | .lbu rt imm rs => Sys2Proof.Machine.execLbu rt imm rs s
  | .lhu rt imm rs => Sys2Proof.Machine.execLhu rt imm rs s
  | .sb rt imm rs => Sys2Proof.Machine.execSb rt imm rs s
  | .sh rt imm rs => Sys2Proof.Machine.execSh rt imm rs s
  | .sw rt imm rs => Sys2Proof.Machine.execSw rt imm rs s

end Sys2Proof.Machine
end

