-- ==== Sys2Proof/Machine/SingleCycle.lean ====
section
/-! DEFINITION. One step of the single-cycle core (50_core_single_cycle.md R302): the halt check, the fetch, the decoding, and the
meaning of the instruction, which commits. -/

namespace Sys2Proof.Machine

/-- R26: PC is not a multiple of 4, which no run of the machine reaches. -/
def State.pcMisaligned (s : State) : Bool := !aligned4 s.pc

/-- R302, R308, phase 1b and phase 2: the fetched word decoded and executed. -/
def execWord (w : Word) (s : State) : StepResult :=
  match decode w with
  | none => .next (s.takeTrap s.pc .unsupportedInstruction none)
  | some i => exec i (s.emit (.execute s.pc i))

/-- R302, R304, R308, phase 1a: the fetch, whose fault is a trap at `pc` with `BadVAddr = pc`. -/
def fetchAndExec (s : State) : StepResult :=
  match s.fetchWord s.mem s.pc with
  | .trap kind a => .next (s.takeTrap s.pc kind (some a))
  | .ok w s' => execWord w (s'.emit (.fetch s.pc w))

/-- R302, R306: one step in status `Running`. -/
def stepSingle (s : State) : StepResult :=
  let s := s.beginCycle
  if s.cfg.haltAddr = some s.pc then .next s.halt
  else if s.pcMisaligned then .fault (.misalignedFetch s.pc)
  else fetchAndExec s

end Sys2Proof.Machine
end

