-- ==== Sys2Proof/Machine/Pipeline.lean ====
section
/-! DEFINITION. One step of the five-stage pipelined core (51_core_pipelined.md R320 to R348), in the order of R342: WB, MEM, EX, ID, IF,
then the next values of the latches and of PC. The latch fields of the state keep their values of the start of the cycle until the
end of the step (R324). -/

namespace Sys2Proof.Machine

/-! WB and MEM. -/

/-- R328, WB: the result of the instruction in MEM/WB written to its register. -/
def State.writeBack (s : State) : State :=
  match s.memWb with
  | .bubble => s
  | .slot q => s.setDest q.dest q.value

/-- R332: the MEM/WB slot of an instruction with its value. -/
def ExMemSlot.withValue (q : ExMemSlot) (v : Option Word) : MemWbSlot :=
  { pc := q.pc, instr := q.instr, value := v, dest := q.dest }

/-- R332, R362, MEM: the data access of the instruction in EX/MEM; the notification of a store stands before those of WB. -/
def memStage (s : State) : MemStage :=
  match s.exMem with
  | .bubble => .ok .bubble s
  | .slot q =>
    match q.memop with
    | none => .ok (.slot (q.withValue q.result)) s
    | some (.load a n signed) =>
      match s.memRead a n with
      | .trap kind bad => .trap q.pc kind bad
      | .ok v s' => .ok (.slot (q.withValue (some (extendLoad n signed v)))) s'
    | some (.store a n v) =>
      match s.memWrite a v n with
      | .trap kind bad => .trap q.pc kind bad
      | .ok s' => .ok (.slot (q.withValue none)) { s' with events := .memory a n v :: s'.events }

/-- R348, case EX, the drain: the result that MEM produced this cycle written to its destination register at once. It is a write-back, so its
notification follows that of the cycle's WB (DEDUCED, notes/assumptions 15). -/
def State.drain (l : Latch MemWbSlot) (s : State) : State :=
  match l with
  | .bubble => s
  | .slot q => s.setDest q.dest q.value

/-! EX. -/

/-- R331: what EX/MEM forwards for a register: its result, unless it is a load. -/
def exMemForward (l : Latch ExMemSlot) (r : Reg) : Option Word :=
  match l with
  | .bubble => none
  | .slot q => if q.dest = some r ∧ isLoad q.instr = false then q.result else none

/-- R331: what MEM/WB forwards for a register. -/
def memWbForward (l : Latch MemWbSlot) (r : Reg) : Option Word :=
  match l with
  | .bubble => none
  | .slot q => if q.dest = some r then q.value else none

/-- R331: the forwarded value of a register, EX/MEM before MEM/WB, else the value read in ID. -/
def forwardReg (em : Latch ExMemSlot) (mw : Latch MemWbSlot) (r : Reg) (v : Word) : Word :=
  if r = 0#5 then v
  else
    match exMemForward em r with
    | some u => u
    | none => (memWbForward mw r).getD v

/-- R331: `fwd(r, v)`. -/
def State.fwd (s : State) (r : Option Reg) (v : Word) : Word :=
  match s.cfg.hazardUnit, r with
  | .forward, some r => forwardReg s.exMem s.memWb r v
  | _, _ => v

/-- R323, R330 step 2: the faulting address of a carried fault: the slot's `pc` for a fetch `BusError`. -/
def carriedAddr (kind : TrapKind) (pc : Word) : Option Word := if kind = .busError .fetch then some pc else none

/-- R330 step 6, R341: what EX does with the effects of the instruction `i` at `pc`. -/
def exDone (pc : Word) (i : Instr) (e : Effects) (s : State) : ExStage :=
  .ok (.slot { pc := pc, instr := i, result := e.result, memop := e.memop, dest := destOf i }) e.target
    { s.applySpecial e with exDelaySlot := s.cfg.delaySlot && e.target.isSome }

/-- R330 steps 3 to 6: an instruction in EX. -/
def exInstr (pc : Word) (i : Instr) (a b : Word) (s : State) : ExStage :=
  if s.exDelaySlot && isControl i then .refuse .controlInDelaySlot
  else
    match operate i (s.fwd (portA i) a) (s.fwd (portB i) b) pc s with
    | .trap kind addr => .trap pc kind addr
    | .halt => .halt pc
    | .refuse r => .refuse r
    | .done e => exDone pc i e s

/-- R362, EX: the notification of the instruction that EX executes; there is none for a carried fault, nor at `HALT_ADDR`. -/
def State.executeNotices (s : State) : List Notification :=
  match s.idEx with
  | .bubble => []
  | .slot q =>
    if s.cfg.haltAddr = some q.pc then []
    else
      match q.payload with
      | .fault _ => []
      | .inst i _ _ => [.execute q.pc i]

/-- R330, EX. -/
def exStage (s : State) : ExStage :=
  match s.idEx with
  | .bubble => .ok .bubble none s
  | .slot q =>
    if s.cfg.haltAddr = some q.pc then .halt q.pc
    else
      match q.payload with
      | .fault kind => .trap q.pc kind (carriedAddr kind q.pc)
      | .inst i a b => exInstr q.pc i a b s

/-! ID. -/

/-- R334, R335: a destination register is among the sources of an instruction. -/
def feeds (dest : Option Reg) (i : Instr) : Bool :=
  match dest with
  | some r => (srcs i).contains r
  | none => false

/-- R334: ID/EX holds a load that feeds the instruction. -/
def loadUse (l : Latch IdExSlot) (i : Instr) : Bool :=
  match l with
  | .bubble => false
  | .slot q =>
    match q.payload with
    | .fault _ => false
    | .inst j _ _ => isLoad j && feeds (destOf j) i

/-- R335: ID/EX holds an instruction that feeds the instruction. -/
def idExFeeds (l : Latch IdExSlot) (i : Instr) : Bool :=
  match l with
  | .bubble => false
  | .slot q =>
    match q.payload with
    | .fault _ => false
    | .inst j _ _ => feeds (destOf j) i

/-- R335: EX/MEM holds an instruction that feeds the instruction. -/
def exMemFeeds (l : Latch ExMemSlot) (i : Instr) : Bool :=
  match l with
  | .bubble => false
  | .slot q => feeds q.dest i

/-- R334 to R336: whether the instruction in ID is held. -/
def State.dataStall (s : State) (i : Instr) : Bool :=
  match s.cfg.hazardUnit with
  | .none => false
  | .forward => loadUse s.idEx i
  | .stall => idExFeeds s.idEx i || exMemFeeds s.exMem i

/-- R333, ID, on the register file after this cycle's WB. -/
def idStage (s : State) : IdStage :=
  match s.ifId with
  | .bubble => { next := .bubble, stall := false }
  | .slot q =>
    match q.payload with
    | .busError => { next := .slot { pc := q.pc, payload := .fault (.busError .fetch) }, stall := false }
    | .word w =>
      match decode w with
      | none => { next := .slot { pc := q.pc, payload := .fault .unsupportedInstruction }, stall := false }
      | some i =>
        if s.dataStall i then { next := .bubble, stall := true }
        else { next := .slot { pc := q.pc, payload := .inst i (s.port (portA i)) (s.port (portB i)) }, stall := false }

/-! IF and control. -/

/-- R337: the instruction in EX/MEM accesses memory. -/
def exMemAccesses (l : Latch ExMemSlot) : Bool :=
  match l with
  | .bubble => false
  | .slot q => q.memop.isSome

/-- R337: both caches are disabled and MEM makes a data access. -/
def State.structuralStall (s : State) : Bool :=
  !s.cfg.iCache.enabled && !s.cfg.dCache.enabled && exMemAccesses s.exMem

/-- R337, R362, IF: the offered slot and the state after the fetch, which reads the bytes `m`; its notification is the first of the cycle. -/
def ifStage (m : Memory) (fetching : Bool) (s : State) : Latch IfIdSlot × State :=
  if fetching then
    match s.fetchWord m s.pc with
    | .ok w s' => (.slot { pc := s.pc, payload := .word w }, { s' with events := .fetch s.pc w :: s'.events })
    | .trap _ _ => (.slot { pc := s.pc, payload := .busError }, s)
  else (.bubble, s)

/-- R340, case of a taken branch or jump with a delay slot. -/
def redirectDelayed (t : Word) (d : IdStage) (fetching : Bool) (offered : Latch IfIdSlot) (s : State) : Front :=
  match s.ifId with
  | .slot q =>
    { ifId := if d.stall then .slot q else .bubble, idEx := d.next, pc := t, pendingRedirect := s.pendingRedirect }
  | .bubble =>
    if fetching then { ifId := offered, idEx := d.next, pc := t, pendingRedirect := none }
    else { ifId := .bubble, idEx := d.next, pc := s.pc, pendingRedirect := some t }

/-- R340, case of no taken branch or jump. -/
def advance (d : IdStage) (fetching : Bool) (offered : Latch IfIdSlot) (s : State) : Front :=
  if d.stall then { ifId := s.ifId, idEx := d.next, pc := s.pc, pendingRedirect := s.pendingRedirect }
  else if fetching then
    { ifId := offered, idEx := d.next, pc := s.pendingRedirect.getD (s.pc + 4#32), pendingRedirect := none }
  else { ifId := .bubble, idEx := d.next, pc := s.pc, pendingRedirect := s.pendingRedirect }

/-- R340: the next values of IF/ID, ID/EX, PC and `pending_redirect`. -/
def frontNext (redirect : Option Word) (d : IdStage) (fetching : Bool) (offered : Latch IfIdSlot) (s : State) : Front :=
  match redirect with
  | some t =>
    if s.cfg.delaySlot then redirectDelayed t d fetching offered s
    else { ifId := .bubble, idEx := .bubble, pc := t, pendingRedirect := s.pendingRedirect }
  | none => advance d fetching offered s

/-- R342, R362: the latches, PC and `pending_redirect` take their next values; the notifications of MEM and WB, `later`, follow those of IF and
EX, and the PC write is last. -/
def State.commitLatches (f : Front) (em : Latch ExMemSlot) (mw : Latch MemWbSlot) (later : List Notification) (s : State) : State :=
  { s with ifId := f.ifId, idEx := f.idEx, exMem := em, memWb := mw, pendingRedirect := f.pendingRedirect,
           events := s.events ++ later }.setPc f.pc

/-- R342: ID, IF and the commit of a cycle in which neither MEM nor EX stopped the machine. `s` is the state after EX, `m` the memory
at the start of the cycle (R84). -/
def finishCycle (m : Memory) (mw : Latch MemWbSlot) (em : Latch ExMemSlot) (redirect : Option Word) (later : List Notification)
    (s : State) : StepResult :=
  let d := idStage s
  let fetching := !d.stall && !s.structuralStall
  if fetching && s.pcMisaligned then .fault (.misalignedFetch s.pc)
  else
    let o := ifStage m fetching s
    .next (o.2.commitLatches (frontNext redirect d fetching o.1 s) em mw later)

/-- R342, R348, R362: EX and what follows it. `s` is the state after WB and MEM, `mw` the next MEM/WB latch. -/
def afterMem (m : Memory) (mw : Latch MemWbSlot) (s : State) : StepResult :=
  match exStage { s with events := s.executeNotices } with
  | .refuse r => .refused r
  | .halt pc => .next (({ s with events := s.executeNotices ++ s.events }.drain mw).setPc pc).halt
  | .trap pc kind addr => .next ((s.drain mw).stageTrap s.executeNotices pc kind addr)
  | .ok em redirect s' => finishCycle m mw em redirect s.events s'

/-- R342: one step in status `Running`. -/
def stepPipelined (s : State) : StepResult :=
  let s1 := s.beginCycle.writeBack
  match memStage s1 with
  | .trap pc kind addr => .next (s1.stageTrap [] pc kind (some addr))
  | .ok mw s2 => afterMem s.mem mw s2

end Sys2Proof.Machine
end

