-- ==== Sys2Proof/Machine/Step.lean ====
section
/-! DEFINITION. One step of the machine (00_scope.md R8, 70_reset_and_hazards.md R410) and the placing of an instruction where it fetches. -/

namespace Sys2Proof.Machine

/-- `step()`: outside `Running` nothing changes (R8); an ill-formed configuration is refused (R6); else one cycle of the configured
core (R302, R342). -/
def step (s : State) : Host.Outcome State Fault Refusal :=
  match s.run with
  | .halted => .next s
  | .trapped _ => .next s
  | .running =>
    if s.cfg.wellFormed then (if s.cfg.pipelined then stepPipelined s else stepSingle s)
    else .refused .illFormedConfig

/-- The instruction whose first `nbits` bits are `w`, loaded where the next step fetches (notes/assumptions 5). -/
def State.withFetchWord (s : State) (nbits w : Nat) : State := s.placeFetchWord (BitVec.ofNat 32 (w % 2 ^ nbits))

end Sys2Proof.Machine
end

