-- ==== Sys2Proof/Machine/Disasm.lean ====
section
/-! DEFINITION. The text of an instruction (30_encoding.md R154, in the syntax of 31_assembly_syntax.md R172): mnemonic in capitals, registers as `$`
and a decimal number, sign-extended immediates in signed decimal, zero-extended ones in hexadecimal, targets as absolute
hexadecimal addresses; shift amounts, codes and selects, of which no rule gives the base, in decimal (DESIGN CHOICE, notes/assumptions
19). An output for the host; no rule depends on it. -/

namespace Sys2Proof.Machine

/-- Signed decimal. -/
def decText (i : Int) : String := if i < 0 then "-" ++ Nat.repr i.natAbs else Nat.repr i.natAbs

/-- R154: hexadecimal with the prefix `0x`, digits in capitals and without leading zeros: no rule gives the case or the number of the digits
(DESIGN CHOICE, notes/assumptions 19; 95_test_vectors.md writes both `LUI $4,0x0001` and `J 0x408`). -/
def hexText (n : Nat) : String := "0x" ++ String.ofList ((Nat.toDigits 16 n).map Char.toUpper)

/-- R171: a register. -/
def regText (r : Reg) : String := "$" ++ Nat.repr r.toNat

/-- R154: an immediate of an `imm_s` user. -/
def immSText (imm : Imm) : String := decText imm.toInt

/-- R154: an immediate of an `imm_z` user. -/
def immZText (imm : Imm) : String := hexText imm.toNat

/-- R172: operands separated by commas. -/
def operandsText : List String → String
  | [] => ""
  | [x] => x
  | x :: y :: rest => x ++ "," ++ operandsText (y :: rest)

/-- R172: a mnemonic with its operands. -/
def lineText (mnemonic : String) (ops : List String) : String :=
  match ops with
  | [] => mnemonic
  | _ :: _ => mnemonic ++ " " ++ operandsText ops

/-- R172: `offset(rs)`. -/
def memText (imm : Imm) (rs : Reg) : String := immSText imm ++ "(" ++ regText rs ++ ")"

/-- R172: the optional code of SYSCALL and BREAK, omitted when 0, else in decimal: no rule gives its base (DESIGN CHOICE, notes/assumptions
19; the vector Y-5 of 95_test_vectors.md writes `BREAK 7`). -/
def codeText (code : Code) : List String := if code = 0#20 then [] else [Nat.repr code.toNat]

/-- R172: the optional select field of MFC0 and MTC0, omitted when 0, else in decimal (DESIGN CHOICE, notes/assumptions 19). -/
def selText (sel : Sel) : List String := if sel = 0#3 then [] else [Nat.repr sel.toNat]

/-- R154: the target of a branch at `pc`. -/
def branchText (pc : Word) (imm : Imm) : String := hexText (branchTarget pc imm).toNat

/-- R154: the target of a jump at `pc`. -/
def jumpText (pc : Word) (index : Index) : String := hexText (jumpTarget pc index).toNat

/-- R172: the operands of an instruction at `pc`, in the order the assembler writes them. -/
def operandTexts (pc : Word) : Instr → List String
  | .sll rd rt shamt => [regText rd, regText rt, Nat.repr shamt.toNat]
  | .srl rd rt shamt => [regText rd, regText rt, Nat.repr shamt.toNat]
  | .sra rd rt shamt => [regText rd, regText rt, Nat.repr shamt.toNat]
  | .sllv rd rt rs => [regText rd, regText rt, regText rs]
  | .srlv rd rt rs => [regText rd, regText rt, regText rs]
  | .srav rd rt rs => [regText rd, regText rt, regText rs]
  | .jr rs => [regText rs]
  | .jalr rd rs => [regText rd, regText rs]
  | .syscall code => codeText code
  | .brk code => codeText code
  | .mfhi rd => [regText rd]
  | .mflo rd => [regText rd]
  | .mthi rs => [regText rs]
  | .mtlo rs => [regText rs]
  | .mult rs rt => [regText rs, regText rt]
  | .multu rs rt => [regText rs, regText rt]
  | .div rs rt => [regText rs, regText rt]
  | .divu rs rt => [regText rs, regText rt]
  | .add rd rs rt => [regText rd, regText rs, regText rt]
  | .addu rd rs rt => [regText rd, regText rs, regText rt]
  | .sub rd rs rt => [regText rd, regText rs, regText rt]
  | .subu rd rs rt => [regText rd, regText rs, regText rt]
  | .and rd rs rt => [regText rd, regText rs, regText rt]
  | .or rd rs rt => [regText rd, regText rs, regText rt]
  | .xor rd rs rt => [regText rd, regText rs, regText rt]
  | .nor rd rs rt => [regText rd, regText rs, regText rt]
  | .slt rd rs rt => [regText rd, regText rs, regText rt]
  | .sltu rd rs rt => [regText rd, regText rs, regText rt]
  | .bltz rs imm => [regText rs, branchText pc imm]
  | .bgez rs imm => [regText rs, branchText pc imm]
  | .bltzal rs imm => [regText rs, branchText pc imm]
  | .bgezal rs imm => [regText rs, branchText pc imm]
  | .j index => [jumpText pc index]
  | .jal index => [jumpText pc index]
  | .beq rs rt imm => [regText rs, regText rt, branchText pc imm]
  | .bne rs rt imm => [regText rs, regText rt, branchText pc imm]
  | .blez rs imm => [regText rs, branchText pc imm]
  | .bgtz rs imm => [regText rs, branchText pc imm]
  | .addi rt rs imm => [regText rt, regText rs, immSText imm]
  | .addiu rt rs imm => [regText rt, regText rs, immSText imm]
  | .slti rt rs imm => [regText rt, regText rs, immSText imm]
  | .sltiu rt rs imm => [regText rt, regText rs, immSText imm]
  | .andi rt rs imm => [regText rt, regText rs, immZText imm]
  | .ori rt rs imm => [regText rt, regText rs, immZText imm]
  | .xori rt rs imm => [regText rt, regText rs, immZText imm]
  | .lui rt imm => [regText rt, immZText imm]
  | .mfc0 rt rd sel => [regText rt, regText rd] ++ selText sel
  | .mtc0 rt rd sel => [regText rt, regText rd] ++ selText sel
  | .lb rt imm rs => [regText rt, memText imm rs]
  | .lh rt imm rs => [regText rt, memText imm rs]
  | .lw rt imm rs => [regText rt, memText imm rs]
  | .lbu rt imm rs => [regText rt, memText imm rs]
  | .lhu rt imm rs => [regText rt, memText imm rs]
  | .sb rt imm rs => [regText rt, memText imm rs]
  | .sh rt imm rs => [regText rt, memText imm rs]
  | .sw rt imm rs => [regText rt, memText imm rs]

/-- R154: the text of an instruction at `pc`. -/
def disassemble (pc : Word) (i : Instr) : String := lineText i.mnemonic (operandTexts pc i)

end Sys2Proof.Machine
end

