-- ==== Sys2Proof/Machine/Pseudo.lean ====
section
/-! DEFINITION. The pseudo-instructions of the source as the instructions they expand to, and the label operands of branches and jumps
(31_assembly_syntax.md R173, R177, R178). They are the assembler's; no rule of the cores reads them. -/

namespace Sys2Proof.Machine

/-- R178: `hi(v)`. -/
def hiPart (v : Word) : Imm := v.extractLsb' 16 16

/-- R178: `lo(v)`. -/
def loPart (v : Word) : Imm := v.extractLsb' 0 16

/-- R177: NOP. -/
def pseudoNop : List Instr := [.sll 0#5 0#5 0#5]

/-- R177: MOVE. -/
def pseudoMove (rd rs : Reg) : List Instr := [.addu rd 0#5 rs]

/-- R177: LA. -/
def pseudoLa (rd : Reg) (v : Word) : List Instr := [.lui rd (hiPart v), .ori rd rd (loPart v)]

/-- R178: LI, the first of the forms that loads exactly `v`. -/
def pseudoLi (rd : Reg) (v : Word) : List Instr :=
  if -32768 ≤ v.toInt ∧ v.toInt ≤ 32767 then [.addiu rd 0#5 (loPart v)]
  else if v.toNat ≤ 65535 then [.ori rd 0#5 (loPart v)]
  else if loPart v = 0#16 then [.lui rd (hiPart v)]
  else [.lui rd (hiPart v), .ori rd rd (loPart v)]

/-- R173, the inverse of R251: the immediate of a branch at `pc` to a label; none, a range error, where it does not fit. The distance is taken
modulo 2^32, as a signed number, as R251 adds it. -/
def branchOperand (pc label : Word) : Option Imm :=
  let d : Int := (label - (pc + 4#32)).toInt
  if d % 4 = 0 ∧ -32768 ≤ d / 4 ∧ d / 4 ≤ 32767 then some (BitVec.ofInt 16 (d / 4)) else none

/-- R173: the index of a jump at `pc` to a label; none, a range error, where the label is misaligned or in another region. -/
def jumpOperand (pc label : Word) : Option Index :=
  if label.extractLsb' 0 2 = 0#2 ∧ label.extractLsb' 28 4 = (pc + 4#32).extractLsb' 28 4 then some (label.extractLsb' 2 26) else none

/-- R177: B at `pc` to a label. -/
def pseudoB (pc label : Word) : Option (List Instr) := (branchOperand pc label).map (fun imm => [.beq 0#5 0#5 imm])

end Sys2Proof.Machine
end

