-- ==== Sys2Proof/Machine/Run.lean ====
section
/-! DEFINITION. The host's run loop (70_reset_and_hazards.md R411) and its verdicts on a run (60_exceptions.md R380). -/

namespace Sys2Proof.Machine

/-- R411: `run()` with a cycle budget: `step()` while the status is `Running` and the host's stop condition, checked between cycles,
does not hold. The condition is tested before the first step too, as R411's loop reads, so a run from a state where it still holds takes no
step; R411 also says that a later `run()` continues after a breakpoint and not how, and here the host steps past it with `step` or gives another
condition (DESIGN CHOICE, notes/assumptions 21). -/
def runWithin (stop : State → Bool) : Nat → State → StepResult
  | 0, s => .next s
  | n + 1, s =>
    if s.run = .running ∧ stop s = false then
      match step s with
      | .next s' => runWithin stop n s'
      | .fault f => .fault f
      | .refused r => .refused r
    else .next s

/-- R411: a breakpoint on an address, compared with PC. DESIGN CHOICE, notes/assumptions 21. -/
def breaksAt (a : Word) (s : State) : Bool := decide (s.pc = a)

/-- R380: `expect-fail`: whether a trap occurred. -/
def State.trappedAny (s : State) : Bool :=
  match s.run with
  | .trapped _ => true
  | .halted => false
  | .running => false

/-- R380: `fail-match`: whether the trap's kind is in the set that the letters give. -/
def State.failMatches (letters : List Char) (s : State) : Bool :=
  match s.run with
  | .trapped k =>
    match trapLetter k with
    | some c => letters.contains c
    | none => false
  | .halted => false
  | .running => false

end Sys2Proof.Machine
end

