-- ==== Sys2Proof/Safety.lean ====
section
/-! DEFINITION. The terms in which claims speak of the machine: what a core sees of memory, the frames that say what an instruction
leaves unchanged, what a trap leaves (60_exceptions.md R376), the invariants of the machine and of its caches, and the reading of
change notifications (10_state.md R24). None of it is used by a step. -/

namespace Sys2Proof.Machine

/-! Memory as the data side sees it. -/

/-- The byte that a load at `a` would see: the data cache's where the range is cached and the block is held, else RAM's (R66, R105). -/
def State.dataByte (s : State) (a : Word) : Byte :=
  match rangeOf s.cfg a with
  | none => s.mem.byte a
  | some r =>
    if s.cfg.dCache.enabled && !r.uncached then
      match s.dCache.peek s.cfg.dCache a with
      | some w => byteOfWord w (a.toNat % 4)
      | none => s.mem.byte a
    else s.mem.byte a

/-- The bytes an access of width `n` at `a` touches (R64). -/
abbrev touches (a : Word) (n : Width) (b : Word) : Prop := a.toNat ≤ b.toNat ∧ b.toNat < a.toNat + widthBytes n

/-- The bytes from `a` up, as many as an access of width `n` has, joined with the first the most significant: the big-endian value (R64). -/
def State.dataValue (s : State) (a : Word) : Width → Word
  | .byte => (s.dataByte a).setWidth 32
  | .half => (s.dataByte a ++ s.dataByte (a + 1#32)).setWidth 32
  | .word => s.dataByte a ++ s.dataByte (a + 1#32) ++ s.dataByte (a + 2#32) ++ s.dataByte (a + 3#32)

/-- The byte of `v` that a store of width `n` at `a` puts at `b`: the most significant of the `n` bytes first (R64, R67). -/
def storedByte (v a b : Word) (n : Width) : Byte := v.extractLsb' (8 * (widthBytes n - 1 - (b.toNat - a.toNat))) 8

/-- A RAM range of the map holds `a`. -/
def State.inRam (s : State) (a : Word) : Prop := ∃ r, rangeOf s.cfg a = some r ∧ r.backend = .ram

/-- A peripheral range of the map holds `a`. -/
def State.inPeripheral (s : State) (a : Word) : Prop := ∃ r d, rangeOf s.cfg a = some r ∧ r.backend = .peripheral d

/-! Frames. -/

/-- The general registers after a write of `v` to `dest`: that register holds `v` unless it is register 0, every other is unchanged,
and register 0 reads 0 (R21). -/
def GprWritten (dest : Option Reg) (v : Word) (s t : State) : Prop :=
  ∀ q : Reg, t.x q = if dest = some q ∧ q ≠ 0#5 then v else s.x q

/-- HI and LO are unchanged. -/
def HiLoKept (s t : State) : Prop := t.hi = s.hi ∧ t.lo = s.lo

/-- BadVAddr, Status, Cause and EPC are unchanged. -/
def Cp0Kept (s t : State) : Prop := ∀ c : Cp0Reg, t.cp0 c = s.cp0 c

/-- Every byte of memory reads as before, in RAM and as the data side sees it, and neither cache has moved. -/
def MemoryKept (s t : State) : Prop :=
  (∀ a, t.mem.byte a = s.mem.byte a) ∧ (∀ a, t.dataByte a = s.dataByte a) ∧ t.iCache = s.iCache ∧ t.dCache = s.dCache

/-- Every byte of memory reads as before as the data side sees it, and the instruction cache has not moved. -/
def DataKept (s t : State) : Prop := (∀ a, t.dataByte a = s.dataByte a) ∧ t.iCache = s.iCache

/-- The run status, the clock, the configuration, the symbol table and the pipeline's latches are unchanged. -/
def MachineKept (s t : State) : Prop :=
  t.run = s.run ∧ t.cycles = s.cycles ∧ t.cfg = s.cfg ∧ t.symbols = s.symbols ∧ t.ifId = s.ifId ∧ t.idEx = s.idEx ∧
  t.exMem = s.exMem ∧ t.memWb = s.memWb ∧ t.pendingRedirect = s.pendingRedirect ∧ t.exDelaySlot = s.exDelaySlot

/-- R303: PC and `pending_target` after an instruction whose taken target, if it has one, is `target`. -/
def PcMoved (target : Option Word) (s t : State) : Prop :=
  if s.cfg.delaySlot then
    t.pendingTarget = target ∧
    (match s.pendingTarget with
     | some p => t.pc = p
     | none => t.pc = s.pc + 4#32)
  else
    t.pendingTarget = s.pendingTarget ∧
    (match target with
     | some p => t.pc = p
     | none => t.pc = s.pc + 4#32)

/-- An instruction that at most writes `v` to the general register `dest` and transfers to `target`, and leaves all else. -/
def WritesRegister (dest : Option Reg) (v : Word) (target : Option Word) (s t : State) : Prop :=
  GprWritten dest v s t ∧ HiLoKept s t ∧ Cp0Kept s t ∧ MemoryKept s t ∧ MachineKept s t ∧ PcMoved target s t ∧ t.draws = s.draws

/-- An instruction that writes HI and LO and leaves all else. -/
def WritesHiLo (hi lo : Word) (s t : State) : Prop :=
  t.hi = hi ∧ t.lo = lo ∧ GprWritten none 0#32 s t ∧ Cp0Kept s t ∧ MemoryKept s t ∧ MachineKept s t ∧ PcMoved none s t

/-! Traps. -/

/-- R371, R376: what a trap of kind `k` with code `code` and optional address `a`, taken by the instruction at `pc`, leaves in
the control registers, in PC and in the status. -/
def TrapRecorded (pc : Word) (k : TrapKind) (code : BitVec 5) (a : Option Word) (s t : State) : Prop :=
  t.epc = pc ∧ t.cause.extractLsb' 2 5 = code ∧ t.cause.extractLsb' 7 25 = s.cause.extractLsb' 7 25 ∧
  t.cause.extractLsb' 0 2 = s.cause.extractLsb' 0 2 ∧ t.badVAddr = a.getD s.badVAddr ∧ t.cp0Status = s.cp0Status ∧ t.pc = pc ∧
  t.run = .trapped k

/-- R301, R376: the trap of the single-cycle core: it is recorded and nothing else changes. -/
def Traps (k : TrapKind) (code : BitVec 5) (a : Option Word) (s t : State) : Prop :=
  TrapRecorded s.pc k code a s t ∧ GprWritten none 0#32 s t ∧ HiLoKept s t ∧ MemoryKept s t ∧ t.cycles = s.cycles ∧ t.cfg = s.cfg ∧
  t.pendingTarget = s.pendingTarget ∧ t.draws = s.draws

/-- R371: the codes of the trap kinds. -/
def CodeOf (k : TrapKind) (code : BitVec 5) : Prop :=
  (k = .unalignedAccess .load ∧ code = 4#5) ∨ (k = .unalignedJump ∧ code = 4#5) ∨ (k = .unalignedAccess .store ∧ code = 5#5) ∨
  (k = .busError .fetch ∧ code = 6#5) ∨ (k = .busError .data ∧ code = 7#5) ∨ (k = .syscall ∧ code = 8#5) ∨
  (k = .brk ∧ code = 9#5) ∨ (k = .unsupportedInstruction ∧ code = 10#5) ∨ (k = .overflow ∧ code = 12#5)

/-- R371: the kinds that record a faulting address. -/
def HasAddress (k : TrapKind) : Prop := (∃ d, k = .unalignedAccess d) ∨ k = .unalignedJump ∨ ∃ b, k = .busError b

/-- R66, R67: the trap that an access of width `n` at `a` takes where it does not succeed: a misaligned one `UnalignedAccess`, an aligned one at an
unmapped address `BusError`. -/
def AccessTraps (g : Config) (a : Word) (n : Width) (access : DataAccess) (k : TrapKind) : Prop :=
  (a.toNat % widthBytes n ≠ 0 ∧ k = .unalignedAccess access) ∨ (a.toNat % widthBytes n = 0 ∧ rangeOf g a = none ∧ k = .busError .data)

/-- R332, R348: the load or store in EX/MEM traps in MEM with kind `k` at its own address `a`. -/
def TrapsInMem (g : Config) (q : ExMemSlot) (k : TrapKind) (a : Word) : Prop :=
  (∃ n signed, q.memop = some (.load a n signed) ∧ AccessTraps g a n .load k) ∨
  (∃ n v, q.memop = some (.store a n v) ∧ AccessTraps g a n .store k)

/-- R330 steps 1 and 5: the slot in ID/EX halts in EX: it is at `HALT_ADDR`, whatever it carries, or it is SYSCALL with 10 in register 2. -/
def HaltsInEx (s : State) (q : IdExSlot) : Prop :=
  s.cfg.haltAddr = some q.pc ∨ ∃ code a b, q.payload = .inst (.syscall code) a b ∧ s.fwd (some 2#5) a = 10#32

/-- R330 steps 2 and 5: the slot in ID/EX traps in EX with kind `k` and the address `a`: it carries the fault, whose address is its own where it is
that of its fetch, or the block of its instruction traps, on the operands forwarded in `s` and the HI, LO and Coprocessor 0 of `m`. -/
def TrapsInEx (s m : State) (q : IdExSlot) (k : TrapKind) (a : Option Word) : Prop :=
  s.cfg.haltAddr ≠ some q.pc ∧
  ((q.payload = .fault k ∧ a = if k = .busError .fetch then some q.pc else none) ∨
   ∃ i v w, q.payload = .inst i v w ∧ operate i (s.fwd (portA i) v) (s.fwd (portB i) w) q.pc m = .trap k a)

/-- R323: the faults that a slot carries to EX. -/
def CarriedKind (k : TrapKind) : Prop := k = .busError .fetch ∨ k = .unsupportedInstruction

/-! Invariants. -/

/-- An optional address is a multiple of 4. -/
def OptAligned (a : Option Word) : Prop := ∀ t, a = some t → t.toNat % 4 = 0

/-- R26: PC, the waiting targets and the addresses in the latches are multiples of 4. -/
structure PcAligned (s : State) : Prop where
  pc : s.pc.toNat % 4 = 0
  pendingTarget : OptAligned s.pendingTarget
  pendingRedirect : OptAligned s.pendingRedirect
  ifId : ∀ q, s.ifId = .slot q → q.pc.toNat % 4 = 0
  idEx : ∀ q, s.idEx = .slot q → q.pc.toNat % 4 = 0
  exMem : ∀ q, s.exMem = .slot q → q.pc.toNat % 4 = 0
  memWb : ∀ q, s.memWb = .slot q → q.pc.toNat % 4 = 0

/-- The invariant of the machine: a well-formed configuration (R6), memory in canonical form, register 0 held at 0 (R21), every address
an instruction is fetched from aligned (R26), no delay-slot state without a delay slot (R37, R321). -/
structure MachineInv (s : State) : Prop where
  config : s.cfg.wellFormed = true
  memory : s.mem.wf = true
  zero : s.gpr[0] = 0#32
  aligned : PcAligned s
  noDelay : s.cfg.delaySlot = false → s.pendingTarget = none ∧ s.pendingRedirect = none ∧ s.exDelaySlot = false

/-- The first address of the block of a line of set `s`, as a natural number (R102). -/
def Line.base (c : CacheCfg) (s : Nat) (l : Line) : Nat := (l.tag * c.sets + s) * c.words * 4

/-- A line's block lies inside a cached RAM range of the map and its data has the block's length (R101, R104). -/
def Line.placed (g : Config) (c : CacheCfg) (s : Nat) (l : Line) : Prop :=
  l.data.length = c.words ∧
  ∃ r, r ∈ g.map ∧ r.uncached = false ∧ r.lo ≤ l.base c s ∧ l.base c s + blockBytes c ≤ r.hi

/-- R103, R107, R115, R116: the invariants of an enabled cache of configuration `c` in a machine of configuration `g`. -/
structure CacheInv (g : Config) (c : CacheCfg) (k : Cache) : Prop where
  sets_length : k.sets.length = c.sets
  ways_length : ∀ ways, ways ∈ k.sets → ways.length = c.ways
  placed : ∀ s w, (k.line s w).valid = true → (k.line s w).placed g c s
  oneTag : ∀ s i j, (k.line s i).valid = true → (k.line s j).valid = true → (k.line s i).tag = (k.line s j).tag → i = j
  oneTick : ∀ s i j, (k.line s i).valid = true → (k.line s j).valid = true → (k.line s i).lastTick = (k.line s j).lastTick → i = j
  tickBound : ∀ s w, (k.line s w).valid = true → (k.line s w).lastTick ≤ k.tick
  dirtyValid : ∀ s w, (k.line s w).dirty = true → (k.line s w).valid = true
  throughClean : c.writePolicy ≠ .writeBack → ∀ s w, (k.line s w).dirty = false
  accesses : k.stats.hits + k.stats.misses = k.tick
  fills : k.stats.memReads ≤ k.stats.misses
  writes : k.stats.memWrites = k.stats.writeBacks + k.stats.throughStores

/-- A valid clean line holds what RAM holds. -/
def CleanAgrees (c : CacheCfg) (k : Cache) (m : Memory) : Prop :=
  ∀ s w, (k.line s w).valid = true → (k.line s w).dirty = false → (k.line s w).data = m.readBurst (lineBase c (k.line s w).tag s) c.words

/-- The invariant of both caches: the instruction cache never holds a dirty line (R101); a clean line of the data cache agrees with RAM. -/
structure CachesInv (s : State) : Prop where
  instruction : s.cfg.iCache.enabled = true → CacheInv s.cfg s.cfg.iCache s.iCache ∧ ∀ i w, (s.iCache.line i w).dirty = false
  data : s.cfg.dCache.enabled = true → CacheInv s.cfg s.cfg.dCache s.dCache ∧ CleanAgrees s.cfg.dCache s.dCache s.mem

/-- What the data side of a machine relies on. -/
structure DataInv (s : State) : Prop where
  config : s.cfg.wellFormed = true
  memory : s.mem.wf = true
  caches : CachesInv s

/-- No counter of the statistics has fallen (R103, R115). -/
def StatsGrown (a b : CacheStats) : Prop :=
  a.hits ≤ b.hits ∧ a.misses ≤ b.misses ∧ a.memReads ≤ b.memReads ∧ a.memWrites ≤ b.memWrites ∧ a.stallCycles ≤ b.stallCycles

/-! Transparency of the data cache. -/

/-- A configuration with both caches disabled. -/
def withoutCaches (g : Config) : Config := { g with iCache := CacheCfg.off, dCache := CacheCfg.off }

/-- R117: two machines that a program cannot tell apart on the data side: `t` has no caches, and its RAM holds what the data side of `s`
sees; everything else but the caches is equal. -/
structure SeenAlike (s t : State) : Prop where
  cfg : t.cfg = withoutCaches s.cfg
  gpr : t.gpr = s.gpr
  pc : t.pc = s.pc
  hi : t.hi = s.hi
  lo : t.lo = s.lo
  cp0 : ∀ c, t.cp0 c = s.cp0 c
  pendingTarget : t.pendingTarget = s.pendingTarget
  run : t.run = s.run
  cycles : t.cycles = s.cycles
  events : t.events = s.events
  draws : t.draws = s.draws
  symbols : t.symbols = s.symbols
  memory : ∀ a, t.mem.byte a = s.dataByte a

/-! Notifications. -/

/-- R24: the value of the register that `(kind, index)` names. -/
def State.regValue (s : State) (kind : RegKind) (index : Nat) : Word :=
  match kind with
  | .gp => if h : index < 32 then s.x (BitVec.ofFin ⟨index, by omega⟩) else 0#32
  | .pc => s.pc
  | .hi => s.hi
  | .lo => s.lo
  | .cp0 => if index = 8 then s.badVAddr else if index = 12 then s.cp0Status else if index = 13 then s.cause
      else if index = 14 then s.epc else 0#32

/-- R24: the notification of a register that becomes `new`, if it is written. -/
def valueEvents (kind : RegKind) (index : Nat) (old : Word) : Option Word → List Notification
  | some new => [.register ⟨kind, index, old, new⟩]
  | none => []

/-- R24, R362: the notifications of the HI, LO and Coprocessor 0 writes of an instruction's effects. -/
def specialEvents (e : Effects) (s : State) : List Notification :=
  valueEvents .hi 0 s.hi e.hi ++ valueEvents .lo 0 s.lo e.lo ++
    match e.cp0 with
    | some (c, v) => valueEvents .cp0 (cp0Number c) (s.cp0 c) (some v)
    | none => []

/-- R24, R21: the notification of the write of a destination register between `s` and `t`: one, and none for register 0. -/
def gprEvents (dest : Option Reg) (s t : State) : List Notification :=
  match dest with
  | some r => if r = 0#5 then [] else valueEvents .gp r.toNat (s.x r) (some (t.x r))
  | none => []

/-- R308, R42: the notification of the write of memory that an instruction asks for. -/
def storeEvents : Option MemOp → List Notification
  | some (.store a n v) => [.memory a n v]
  | some (.load _ _ _) => []
  | none => []

/-- R362, R332: the notification of the write of memory that MEM makes for the instruction in EX/MEM. -/
def memoryEvents (s : State) : List Notification :=
  match s.exMem with
  | .bubble => []
  | .slot q => storeEvents q.memop

/-- R362, R330: the notification of the instruction that EX executes. -/
def executeEvents (s : State) : List Notification :=
  match s.idEx with
  | .slot { pc := pc, payload := .inst i _ _ } => if s.cfg.haltAddr = some pc then [] else [.execute pc i]
  | .slot { pc := _, payload := .fault _ } => []
  | .bubble => []

/-- R362, R348: the notification of the write of a MEM/WB slot, by WB or by the drain, between `s` and `t`. -/
def writeBackEvents (l : Latch MemWbSlot) (s t : State) : List Notification :=
  match l with
  | .bubble => []
  | .slot q => if q.value = none then [] else gprEvents q.dest s t

/-- R24, R376: the notifications of a trap's record, with BadVAddr where the trap has an address. -/
def recordEvents (addr : Option Word) (s t : State) : List Notification :=
  valueEvents .cp0 14 s.epc (some t.epc) ++ valueEvents .cp0 13 s.cause (some t.cause) ++ valueEvents .cp0 8 s.badVAddr addr

/-- R24: the notification of the write of PC between `s` and `t`. -/
def pcEvents (s t : State) : List Notification := valueEvents .pc 0 s.pc (some t.pc)

/-- R24: a notification of one register. -/
def registerEvent (kind : RegKind) (index : Nat) : Notification → Option Event
  | .register e => if e.kind = kind ∧ e.index = index then some e else none
  | .fetch _ _ => none
  | .execute _ _ => none
  | .memory _ _ _ => none

/-- The notifications of one register. -/
def eventsOf (kind : RegKind) (index : Nat) (es : List Notification) : List Event := es.filterMap (registerEvent kind index)

/-- The value that a chain of notifications of one register, starting from `v`, ends in; none unless each one's `old` is what the register
held. -/
def chainValue (v : Word) : List Event → Option Word
  | [] => some v
  | e :: rest => if e.old = v then chainValue e.new rest else none

/-! Instructions. -/

/-- R28: the instructions that write HI or LO. -/
def WritesMultiplier (i : Instr) : Prop :=
  (∃ rs rt, i = .mult rs rt) ∨ (∃ rs rt, i = .multu rs rt) ∨ (∃ rs rt, i = .div rs rt) ∨ (∃ rs rt, i = .divu rs rt) ∨
  (∃ rs, i = .mthi rs) ∨ (∃ rs, i = .mtlo rs)

/-- R266: the instructions that transfer control. -/
def TransfersControl (i : Instr) : Prop :=
  (∃ rs rt imm, i = .beq rs rt imm) ∨ (∃ rs rt imm, i = .bne rs rt imm) ∨ (∃ rs imm, i = .blez rs imm) ∨ (∃ rs imm, i = .bgtz rs imm) ∨
  (∃ rs imm, i = .bltz rs imm) ∨ (∃ rs imm, i = .bgez rs imm) ∨ (∃ rs imm, i = .bltzal rs imm) ∨ (∃ rs imm, i = .bgezal rs imm) ∨
  (∃ index, i = .j index) ∨ (∃ index, i = .jal index) ∨ (∃ rs, i = .jr rs) ∨ (∃ rd rs, i = .jalr rd rs)

/-- A list of instructions executed one after another, each as `exec` gives it. -/
def execAll : List Instr → State → StepResult
  | [], s => .next s
  | i :: rest, s =>
    match exec i s with
    | .next t => execAll rest t
    | .fault f => .fault f
    | .refused r => .refused r

/-- What a function of states does to an outcome. -/
def mapNext (f : State → State) : StepResult → StepResult
  | .next s => .next (f s)
  | .fault r => .fault r
  | .refused r => .refused r

end Sys2Proof.Machine
end

