-- ==== Sys2Proof/Certificates/Slice0/Obligations.lean ====
section
/-! DEFINITION. The statements about the machine. Each docstring names the rules of the spec it rests on. `DataInv`, `MachineInv` and the
frames are those of Sys2Proof/Safety.lean. -/

open Sys2Proof Sys2Proof.Machine

/-! Encoding. -/

/-- R153, both directions: `decode` and `encode` are inverse to each other, on words and on the bytes memory holds (R142). -/
def Obligations.DecodeAndEncodeAreInverse : Prop :=
  (∀ i : Instr, decode (encode i) = some i) ∧
  (∀ (i : Instr) (rest : List Byte), decodeBytes (encodeBytes i ++ rest) = .ok (i, rest)) ∧
  (∀ (w : Word) (i : Instr), decode w = some i → encode i = w)

/-- R149, R150: no word hits two rows of the table, and the words that hit none are those that do not decode. -/
def Obligations.TableRowsAreDisjoint : Prop :=
  ∀ w : Word,
    (∀ r q : Row, r ∈ opcodeTable → q ∈ opcodeTable → r.hits w = true → q.hits w = true → r.mnemonic = q.mnemonic) ∧
    (decode w = none ↔ ∀ r : Row, r ∈ opcodeTable → r.hits w = false)

/-- R141, R150, R157: words of every format decode as the spec's table says, and words with a must-be-zero bit set do not decode.
That the must-be-zero bits are checked is the spec's own decision D12 (92_eei_decisions.md). -/
def Obligations.SpecWordsDecode : Prop :=
  decode 0x3C017FFF#32 = some (.lui 1#5 0x7FFF#16) ∧ decode 0x00211020#32 = some (.add 2#5 1#5 1#5) ∧
  decode 0x8C020000#32 = some (.lw 2#5 0#16 0#5) ∧ decode 0x08000102#32 = some (.j 0x102#26) ∧
  decode 0x00000000#32 = some (.sll 0#5 0#5 0#5) ∧ decode 0x03FFFFCC#32 = some (.syscall 0xFFFFF#20) ∧
  decode 0x00221804#32 = some (.sllv 3#5 2#5 1#5) ∧ decode 0x0022001A#32 = some (.div 1#5 2#5) ∧
  decode 0x04300004#32 = some (.bltzal 1#5 4#16) ∧ decode 0x40027001#32 = some (.mfc0 2#5 14#5 1#3) ∧
  decode 0x00200000#32 = none ∧ decode 0x00221060#32 = none ∧ decode 0x42000018#32 = none ∧ decode 0xFFFFFFFF#32 = none

/-! Reset, configuration, and the step as a whole. -/

/-- R401: the state after reset, for every configuration and every image; and where the register parameters have their default 0 (R5), as in
`State.reset`, every register but PC reads 0.
Rests on the spec's own decisions D2, D3 (92_eei_decisions.md). -/
def Obligations.ResetLeavesTheStatedValues : Prop :=
  (∀ q : Reg, State.reset.x q = 0#32) ∧ State.reset.hi = 0#32 ∧ State.reset.lo = 0#32 ∧ (∀ c, State.reset.cp0 c = 0#32) ∧
  ∀ (g : Config) (image : Memory),
    let s := State.resetWith g image
    s.x 0#5 = 0#32 ∧ (∀ q : Reg, q ≠ 0#5 → s.x q = g.initGpr[q.toNat]'q.isLt) ∧ s.hi = g.initHi ∧ s.lo = g.initLo ∧
    s.badVAddr = g.initCp0.badVAddr ∧ s.cp0Status = g.initCp0.status ∧ s.cause = g.initCp0.cause ∧ s.epc = g.initCp0.epc ∧
    s.pc = g.resetPc ∧ s.pendingTarget = none ∧ s.pendingRedirect = none ∧ s.exDelaySlot = false ∧
    s.ifId = .bubble ∧ s.idEx = .bubble ∧ s.exMem = .bubble ∧ s.memWb = .bubble ∧
    (∀ i w, (s.iCache.line i w).valid = false ∧ (s.iCache.line i w).dirty = false) ∧
    (∀ i w, (s.dCache.line i w).valid = false ∧ (s.dCache.line i w).dirty = false) ∧
    s.iCache.tick = 0 ∧ s.dCache.tick = 0 ∧ s.iCache.stats = CacheStats.zero ∧ s.dCache.stats = CacheStats.zero ∧
    s.run = .running ∧ s.cycles = 0 ∧ s.mem = image

/-- R6, R61: a running machine is refused as ill-formed exactly when its configuration breaks one of the constraints. The last one, that a
peripheral range is uncached, is the constraint on `UNCACHED` of 92_eei_decisions.md section 2.
Rests on the spec's own decisions D4, D21 (92_eei_decisions.md). -/
def Obligations.IllFormedConfigurationIsRefused : Prop :=
  ∀ s : State, s.run = .running →
    (step s ≠ .refused .illFormedConfig ↔
      (∀ c, (c = s.cfg.iCache ∨ c = s.cfg.dCache) → c.enabled = true → 1 ≤ c.sets ∧ 1 ≤ c.words ∧ 1 ≤ c.ways) ∧
      s.cfg.resetPc.toNat % 4 = 0 ∧ OptAligned s.cfg.haltAddr ∧
      (∀ r, r ∈ s.cfg.map → r.lo < r.hi ∧ r.hi ≤ 2 ^ 32 ∧ r.lo % 4 = 0 ∧ r.hi % 4 = 0) ∧
      s.cfg.map.Pairwise (fun r q => r.hi ≤ q.lo ∨ q.hi ≤ r.lo) ∧
      (∀ r c, r ∈ s.cfg.map → (c = s.cfg.iCache ∨ c = s.cfg.dCache) → c.enabled = true → r.uncached = false →
        r.lo % (4 * c.words) = 0 ∧ r.hi % (4 * c.words) = 0) ∧
      (∀ r d, r ∈ s.cfg.map → r.backend = .peripheral d → r.uncached = true))

/-- R302, R308: a step of the single-cycle core runs the instruction that the word it fetches decodes to, on the state that the fetch leaves in a
cycle already counted, with the notifications of the fetch and of the execution begun, in that order; where the range is RAM and the fetch
does not go through the instruction cache, that is the state before the step but for the clock and these notifications.
The form of the two notifications is the model's (notes/assumptions 28). -/
def Obligations.StepRunsTheDecodedInstruction : Prop :=
  ∀ (s : State) (i : Instr),
    s.run = .running → s.cfg.wellFormed = true → s.cfg.pipelined = false → s.cfg.haltAddr ≠ some s.pc → s.pc.toNat % 4 = 0 →
    (∀ s', State.fetchWord s.mem s.pc { s with cycles := s.cycles + 1, events := [] } = .ok (encode i) s' →
      step s = exec i { s' with events := [.fetch s.pc (encode i), .execute s.pc i] }) ∧
    (∀ r, rangeOf s.cfg s.pc = some r → r.backend = .ram → (s.cfg.iCache.enabled = false ∨ r.uncached = true) →
      [s.mem.byte s.pc, s.mem.byte (s.pc + 1#32), s.mem.byte (s.pc + 2#32), s.mem.byte (s.pc + 3#32)] = encodeBytes i →
      step s = exec i { s with cycles := s.cycles + 1, events := [.fetch s.pc (encode i), .execute s.pc i] })

/-- R304, R150, R371, R323, R330, R333, R337: a fetch at an unmapped PC takes `BusError` with code 6, EPC and BadVAddr the address fetched at, and an
unknown word takes `UnsupportedInstruction` with code 10. On the single-cycle core the step that fetches takes it. On the pipelined core
IF offers the fault, ID puts it in ID/EX, and the slot takes it in EX, where its address is not `HALT_ADDR` and MEM does not stop first, with
WB, MEM and the drain done.
Rests on the spec's own decisions D6, D7, D12, D35 (92_eei_decisions.md). -/
def Obligations.FetchAndDecodeFaultsTrap : Prop :=
  (∀ s : State,
    s.run = .running → s.cfg.wellFormed = true → s.cfg.pipelined = false → s.cfg.haltAddr ≠ some s.pc → s.pc.toNat % 4 = 0 →
    (rangeOf s.cfg s.pc = none →
      ∃ t, step s = .next t ∧ Traps (.busError .fetch) 6#5 (some s.pc) { s with cycles := s.cycles + 1 } t) ∧
    (∀ w s', State.fetchWord s.mem s.pc { s with cycles := s.cycles + 1, events := [] } = .ok w s' → decode w = none →
      ∃ t, step s = .next t ∧ Traps .unsupportedInstruction 10#5 none s' t)) ∧
  (∀ s : State,
    s.run = .running → s.cfg.wellFormed = true → s.cfg.pipelined = true →
    (s.pc.toNat % 4 = 0 → rangeOf s.cfg s.pc = none → s.exMem = .bubble → s.idEx = .bubble → s.ifId = .bubble →
      ∃ t, step s = .next t ∧ t.run = .running ∧ t.ifId = .slot { pc := s.pc, payload := .busError }) ∧
    (∀ d t, s.ifId = .slot d → (∀ x j a b, s.idEx = .slot x → x.payload = .inst j a b → ¬ TransfersControl j) →
      step s = .next t → t.run = .running →
      (d.payload = .busError → t.idEx = .slot { pc := d.pc, payload := .fault (.busError .fetch) }) ∧
      (∀ w, d.payload = .word w → decode w = none → t.idEx = .slot { pc := d.pc, payload := .fault .unsupportedInstruction })) ∧
    (∀ q k mw m, s.idEx = .slot q → q.payload = .fault k → CarriedKind k → s.cfg.haltAddr ≠ some q.pc →
      memStage s.writeBack = .ok mw m →
      ∃ t code, step s = .next t ∧ CodeOf k code ∧ TrapRecorded q.pc k code (if k = .busError .fetch then some q.pc else none) s t ∧
        HiLoKept s t ∧ (∀ r, t.x r = (m.drain mw).x r) ∧ t.mem = m.mem ∧ t.dCache = m.dCache))

/-- R306, R330 step 1, R348: at `HALT_ADDR` the single-cycle core halts before the fetch: the cycle counts, the status becomes `Halted`, nothing else
changes. The pipelined core halts in EX when the slot in ID/EX is at `HALT_ADDR`, whatever the slot carries, with WB, MEM and the drain
done and PC at that address.
Rests on the spec's own decisions D11, D35 (92_eei_decisions.md). -/
def Obligations.HaltAddressStopsBeforeTheFetch : Prop :=
  (∀ s : State, s.run = .running → s.cfg.wellFormed = true → s.cfg.pipelined = false → s.cfg.haltAddr = some s.pc →
    step s = .next { s with cycles := s.cycles + 1, events := [], run := .halted }) ∧
  (∀ (s m : State) (q : IdExSlot) (mw : Latch MemWbSlot),
    s.run = .running → s.cfg.wellFormed = true → s.cfg.pipelined = true → s.idEx = .slot q → s.cfg.haltAddr = some q.pc →
    memStage s.writeBack = .ok mw m →
    ∃ t, step s = .next t ∧ t.run = .halted ∧ t.pc = q.pc ∧ HiLoKept s t ∧ Cp0Kept s t ∧ (∀ r, t.x r = (m.drain mw).x r) ∧
      t.mem = m.mem ∧ t.dCache = m.dCache ∧ t.iCache = s.iCache)

/-- R8: a machine that is halted or trapped stays as it is, however often it is stepped.
Rests on the spec's own decision D9 (92_eei_decisions.md). -/
def Obligations.StoppedMachineStaysAsItIs : Prop :=
  ∀ (n : Nat) (s : Machine.State), s.run ≠ .running → Host.Core.run Sys2Proof.core n s = .next s

/-- R40: every step taken in status `Running` counts one cycle, on both cores, whatever the step does.
Rests on the spec's own decision D30 (92_eei_decisions.md). -/
def Obligations.EveryRunningStepCountsOneCycle : Prop :=
  ∀ s t : State, s.run = .running → step s = .next t → t.cycles = s.cycles + 1

/-- R5, R100, R60: no step changes the configuration, the map or the symbol table. -/
def Obligations.StepsKeepTheConfiguration : Prop :=
  ∀ s t : State, step s = .next t → t.cfg = s.cfg ∧ t.symbols = s.symbols

/-- R26, R21, R69, R37, R321: the invariant of the machine is kept by every step of either core. -/
def Obligations.StepKeepsMachineInvariant : Prop :=
  ∀ s t : State, MachineInv s → step s = .next t → MachineInv t

/-- R6, R41: the invariants of the machine and of its caches hold after reset, for every well-formed configuration and every image in
canonical form. -/
def Obligations.ResetMeetsTheInvariants : Prop :=
  (∀ (g : Config) (image : Memory), g.wellFormed = true → image.wf = true →
    MachineInv (State.resetWith g image) ∧ DataInv (State.resetWith g image)) ∧
  MachineInv State.reset ∧ DataInv State.reset

/-- R26, R8, 93_implementation_defined.md: from a state that meets the invariant a step never faults, and it is refused only for a control
transfer in a delay slot (with a delay slot configured) or for a Coprocessor 0 register that does not exist.
Rests on the spec's own decisions D17, D27 (92_eei_decisions.md). -/
def Obligations.StepGoesOnFromTheInvariant : Prop :=
  ∀ s : State, MachineInv s →
    (∃ t, step s = .next t) ∨ (s.cfg.delaySlot = true ∧ step s = .refused .controlInDelaySlot) ∨
    (∃ rd sel, cp0Of rd sel = none ∧ step s = .refused (.cp0NotImplemented rd sel))

/-- R24, R21, R42, R308, R348, R362, R376: every register write of a cycle is notified exactly once, a write of the value the register already
holds too, and a write to register 0 not at all. For each general register, PC, HI, LO and Coprocessor 0 register, the cycle's notifications
of it form a chain from its value before the step to its value after. On the single-cycle core an instruction that goes on adds exactly one
notification for its write of memory, for its destination, for each of HI, LO and Coprocessor 0 it writes, and for PC, in that order; one
that traps those of the trap's record and of PC; one that halts none. On the pipelined core a cycle that goes on has exactly that of the
fetch, where a word is fetched, that of the instruction that EX executes and of its HI, LO and Coprocessor 0 writes, that of the write of
memory in MEM, that of WB, and that of PC, in the order of the stages; one that stops in EX has those of EX, with the trap's record if it
traps, of MEM, of WB, of the drain and of PC; one that stops in MEM those of the record, of WB and of PC.
Rests on the spec's own decision D41 (92_eei_decisions.md), for the index of PC, HI and LO on notes/assumptions 11, for the form of the
notifications of fetch, execution and memory writes on notes/assumptions 28, and for the place of the drain on notes/assumptions 15. -/
def Obligations.EveryRegisterWriteIsNotifiedOnce : Prop :=
  (∀ (s t : State) (kind : RegKind) (index : Nat),
    s.run = .running → step s = .next t →
    ((kind = .gp ∧ index < 32) ∨ (kind = .cp0) ∨ index = 0) →
    chainValue (s.regValue kind index) (eventsOf kind index t.events) = some (t.regValue kind index)) ∧
  (∀ (i : Instr) (s t : State), s.run = .running → exec i s = .next t →
    (∀ e, t.run = .running → operate i (s.port (portA i)) (s.port (portB i)) s.pc s = .done e →
      t.events = s.events ++ storeEvents e.memop ++ gprEvents (destOf i) s t ++ specialEvents e s ++ pcEvents s t) ∧
    (∀ k, t.run = .trapped k →
      ∃ a, ((∃ b, a = some b) ↔ HasAddress k) ∧ t.events = s.events ++ recordEvents a s t ++ pcEvents s t) ∧
    (t.run = .halted → t.events = s.events)) ∧
  (∀ s t : State, s.run = .running → s.cfg.pipelined = true → step s = .next t →
    (t.run = .running →
      ∃ fetched special,
        t.events = fetched ++ executeEvents s ++ special ++ memoryEvents s ++ writeBackEvents s.memWb s t ++ pcEvents s t ∧
        (fetched = [] ∨ ∃ w, fetched = [.fetch s.pc w]) ∧
        (∀ w, t.ifId = .slot { pc := s.pc, payload := .word w } → t.ifId ≠ s.ifId → fetched = [.fetch s.pc w]) ∧
        (s.idEx = .bubble → special = []) ∧
        ∀ x i a b mw m, s.idEx = .slot x → x.payload = .inst i a b → memStage s.writeBack = .ok mw m →
          ∃ e, operate i (s.fwd (portA i) a) (s.fwd (portB i) b) x.pc m = .done e ∧ special = specialEvents e s) ∧
    (∀ pc k a, memStage s.writeBack = .trap pc k a →
      t.events = recordEvents (some a) s t ++ writeBackEvents s.memWb s t ++ pcEvents s t) ∧
    (∀ mw m, t.run ≠ .running → memStage s.writeBack = .ok mw m →
      ∃ record,
        t.events = executeEvents s ++ record ++ memoryEvents s ++ writeBackEvents s.memWb s m ++ writeBackEvents mw m t ++ pcEvents s t ∧
        (t.run = .halted → record = []) ∧
        ∀ k, t.run = .trapped k → ∃ a, record = recordEvents a s t ∧
          ((∀ q k', s.idEx = .slot q → q.payload = .fault k' → CarriedKind k') → ((∃ b, a = some b) ↔ HasAddress k))))

/-- R28, R30, R31, R32, R33: HI and LO are written only by the six instructions of R28; Status only by MTC0 to it; EPC, Cause and
BadVAddr, by an instruction that does not trap, only by MTC0 to them.
Rests on the spec's own decisions D5, for the numbers of the four registers, and D43, for Status and Cause (92_eei_decisions.md). -/
def Obligations.SpecialRegistersAreWrittenOnlyByTheirInstructions : Prop :=
  ∀ (i : Instr) (s t : State), exec i s = .next t →
    (HiLoKept s t ∨ WritesMultiplier i) ∧
    (t.cp0Status = s.cp0Status ∨ ∃ rt, i = .mtc0 rt 12#5 0#3) ∧
    (s.run = .running → t.run = .running →
      (t.epc = s.epc ∨ ∃ rt, i = .mtc0 rt 14#5 0#3) ∧ (t.cause = s.cause ∨ ∃ rt, i = .mtc0 rt 13#5 0#3) ∧
      (t.badVAddr = s.badVAddr ∨ ∃ rt, i = .mtc0 rt 8#5 0#3))

/-- R30: no bit of Status has any effect: for every instruction but MFC0 and MTC0 of Status, executing with another Status gives the same
outcome with that other Status.
Rests on the spec's own decision D43 (92_eei_decisions.md). -/
def Obligations.StatusHasNoEffect : Prop :=
  ∀ (i : Instr) (s : State) (v : Word),
    (∀ rt, i ≠ .mfc0 rt 12#5 0#3) → (∀ rt, i ≠ .mtc0 rt 12#5 0#3) →
    exec i { s with cp0Status := v } = mapNext (fun t => { t with cp0Status := v }) (exec i s)

/-- R40, R391: no instruction reads the cycle counter.
Rests on the spec's own decision D30 (92_eei_decisions.md). -/
def Obligations.NoInstructionReadsTheCycleCounter : Prop :=
  ∀ (i : Instr) (s : State) (n : Nat),
    exec i { s with cycles := n } = mapNext (fun t => { t with cycles := n }) (exec i s)

/-! Traps. -/

/-- R371: the code of each trap kind, and which kinds have one.
Rests on the spec's own decision D6 (92_eei_decisions.md). -/
def Obligations.TrapCodesAreAssigned : Prop :=
  (∀ k code, trapCode k = some code ↔ CodeOf k code) ∧ (∀ k, trapCode k = none ↔ k = .unsupportedAlu) ∧
  (∀ cause code, (withExcCode cause code).extractLsb' 2 5 = code ∧
    (withExcCode cause code).extractLsb' 7 25 = cause.extractLsb' 7 25 ∧
    (withExcCode cause code).extractLsb' 0 2 = cause.extractLsb' 0 2)

/-- R376, R301, R371: on the single-cycle core an instruction that traps records its own address in EPC, the code of its kind in Cause[6:2],
the faulting address, if its kind has one, in BadVAddr, leaves PC at itself and stops the machine, and changes nothing else: no
general register, HI, LO or byte of memory.
Rests on the spec's own decisions D6, D7, D8, D9 (92_eei_decisions.md). -/
def Obligations.TrapChangesNothingElse : Prop :=
  ∀ (i : Instr) (s t : State) (k : TrapKind), s.run = .running → exec i s = .next t → t.run = .trapped k →
    ∃ (code : BitVec 5) (a : Option Word), CodeOf k code ∧ ((∃ b, a = some b) ↔ HasAddress k) ∧ Traps k code a s t

/-- R348, R376, R332, R330: a step of the pipelined core that stops the machine stops it at the oldest instruction that stops. Either the load or
store in EX/MEM traps in MEM, `UnalignedAccess` where it is misaligned and `BusError` where its address is unmapped, with its own address in
BadVAddr, and only WB has happened; or the slot in ID/EX stops in EX, and WB, the data access and the result of MEM have happened: it halts where
it is at `HALT_ADDR` or is SYSCALL with 10 in register 2, else it takes the fault it carries or the trap of its operation block, with that
trap's address in BadVAddr, and an address exactly where the kind has one. In all, HI, LO and Status keep their values and PC is the
stopping instruction's address.
Rests on the spec's own decision D35 (92_eei_decisions.md). -/
def Obligations.PipelinedStopIsPrecise : Prop :=
  ∀ s t : State, s.run = .running → s.cfg.wellFormed = true → s.cfg.pipelined = true → step s = .next t → t.run ≠ .running →
    (∃ q k code a, s.exMem = .slot q ∧ TrapsInMem s.cfg q k a ∧ CodeOf k code ∧ TrapRecorded q.pc k code (some a) s t ∧ HiLoKept s t ∧
      (∀ r, t.x r = s.writeBack.x r) ∧ (∀ b, t.mem.byte b = s.mem.byte b) ∧ t.dCache = s.dCache) ∨
    (∃ q mw m, s.idEx = .slot q ∧ memStage s.writeBack = .ok mw m ∧ t.pc = q.pc ∧ HiLoKept s t ∧
      (∀ r, t.x r = (m.drain mw).x r) ∧ t.mem = m.mem ∧ t.dCache = m.dCache ∧
      ((t.run = .halted ∧ Cp0Kept s t ∧ HaltsInEx s q) ∨
        ∃ k code a, TrapsInEx s m q k a ∧ TrapRecorded q.pc k code a s t ∧
          (CodeOf k code ∨ (k = .unsupportedAlu ∧ q.payload = .fault .unsupportedAlu)) ∧
          ((∀ k', q.payload = .fault k' → CarriedKind k') → ((∃ b, a = some b) ↔ HasAddress k))))

/-! Register arithmetic, logic, comparison and shift. -/

/-- R200, R202, R271: ADD, SUB and ADDI write the exact result where it is in the signed range and take `Overflow`, with code 12 and the
destination unwritten, where it is not.
Rests on the spec's own decisions D6, D15 (92_eei_decisions.md). -/
def Obligations.SignedOverflowTraps : Prop :=
  ∀ (s : State) (i : Instr) (dest : Reg) (exact : Int),
    ((∃ rs rt, i = .add dest rs rt ∧ exact = (s.x rs).toInt + (s.x rt).toInt) ∨
     (∃ rs rt, i = .sub dest rs rt ∧ exact = (s.x rs).toInt - (s.x rt).toInt) ∨
     (∃ rs imm, i = .addi dest rs imm ∧ exact = (s.x rs).toInt + imm.toInt)) →
    (-(2 ^ 31) ≤ exact ∧ exact ≤ 2 ^ 31 - 1 →
      ∃ t, exec i s = .next t ∧ WritesRegister (some dest) (BitVec.ofInt 32 exact) none s t) ∧
    (exact < -(2 ^ 31) ∨ exact > 2 ^ 31 - 1 → ∃ t, exec i s = .next t ∧ Traps .overflow 12#5 none s t)

/-- R200, R202: the overflow tests on bits that the rules give are equivalent to the tests on the exact results. -/
def Obligations.OverflowBitTestsAgree : Prop :=
  ∀ a b : Word,
    (addOverflows a b = true ↔ a.getLsbD 31 = b.getLsbD 31 ∧ (a + b).getLsbD 31 ≠ a.getLsbD 31) ∧
    (subOverflows a b = true ↔ a.getLsbD 31 ≠ b.getLsbD 31 ∧ (a - b).getLsbD 31 ≠ a.getLsbD 31)

/-- R201, R203, R272: ADDU, SUBU and ADDIU write the result modulo 2^32 and never trap. -/
def Obligations.WrappingArithmeticNeverTraps : Prop :=
  ∀ (s : State) (i : Instr) (dest : Reg) (exact : Int),
    ((∃ rs rt, i = .addu dest rs rt ∧ exact = ((s.x rs).toNat : Int) + (s.x rt).toNat) ∨
     (∃ rs rt, i = .subu dest rs rt ∧ exact = ((s.x rs).toNat : Int) - (s.x rt).toNat) ∨
     (∃ rs imm, i = .addiu dest rs imm ∧ exact = ((s.x rs).toNat : Int) + imm.toInt)) →
    ∃ t v, exec i s = .next t ∧ WritesRegister (some dest) v none s t ∧ (v.toNat : Int) = exact % 2 ^ 32

/-- R204 to R207, R273 to R275: the bitwise instructions, bit by bit, the immediate zero-extended. -/
def Obligations.BitwiseLogicIsPerBit : Prop :=
  ∀ (s : State) (i : Instr) (dest : Reg) (bit : Nat → Bool),
    ((∃ rs rt, i = .and dest rs rt ∧ bit = fun k => (s.x rs).getLsbD k && (s.x rt).getLsbD k) ∨
     (∃ rs rt, i = .or dest rs rt ∧ bit = fun k => (s.x rs).getLsbD k || (s.x rt).getLsbD k) ∨
     (∃ rs rt, i = .xor dest rs rt ∧ bit = fun k => (s.x rs).getLsbD k != (s.x rt).getLsbD k) ∨
     (∃ rs rt, i = .nor dest rs rt ∧ bit = fun k => !((s.x rs).getLsbD k || (s.x rt).getLsbD k)) ∨
     (∃ rs imm, i = .andi dest rs imm ∧ bit = fun k => (s.x rs).getLsbD k && (decide (k < 16) && imm.getLsbD k)) ∨
     (∃ rs imm, i = .ori dest rs imm ∧ bit = fun k => (s.x rs).getLsbD k || (decide (k < 16) && imm.getLsbD k)) ∨
     (∃ rs imm, i = .xori dest rs imm ∧ bit = fun k => (s.x rs).getLsbD k != (decide (k < 16) && imm.getLsbD k))) →
    ∃ t v, exec i s = .next t ∧ WritesRegister (some dest) v none s t ∧ ∀ k, k < 32 → v.getLsbD k = bit k

/-- R208, R209, R277, R278: the comparisons write the word 1 or the word 0; SLTIU sign-extends its immediate and compares unsigned. -/
def Obligations.ComparisonsWriteOneOrZero : Prop :=
  ∀ (s : State) (i : Instr) (dest : Reg) (less : Prop),
    ((∃ rs rt, i = .slt dest rs rt ∧ less = ((s.x rs).toInt < (s.x rt).toInt)) ∨
     (∃ rs rt, i = .sltu dest rs rt ∧ less = ((s.x rs).toNat < (s.x rt).toNat)) ∨
     (∃ rs imm, i = .slti dest rs imm ∧ less = ((s.x rs).toInt < imm.toInt)) ∨
     (∃ rs imm, i = .sltiu dest rs imm ∧
       less = ((s.x rs).toNat < if imm.toNat < 2 ^ 15 then imm.toNat else imm.toNat + (2 ^ 32 - 2 ^ 16)))) →
    (less → ∃ t, exec i s = .next t ∧ WritesRegister (some dest) 1#32 none s t) ∧
    (¬ less → ∃ t, exec i s = .next t ∧ WritesRegister (some dest) 0#32 none s t)

/-- R210 to R215: the shifts, by the constant or by the low five bits of `rs`; the arithmetic right shift rounds toward minus infinity. -/
def Obligations.ShiftsMoveByFiveBits : Prop :=
  ∀ (s : State) (i : Instr) (dest rt : Reg) (n : Nat),
    ((∃ shamt : BitVec 5, i = .sll dest rt shamt ∧ n = shamt.toNat) ∨ (∃ rs, i = .sllv dest rt rs ∧ n = (s.x rs).toNat % 32) →
      ∃ t v, exec i s = .next t ∧ WritesRegister (some dest) v none s t ∧ v.toNat = (s.x rt).toNat * 2 ^ n % 2 ^ 32) ∧
    ((∃ shamt : BitVec 5, i = .srl dest rt shamt ∧ n = shamt.toNat) ∨ (∃ rs, i = .srlv dest rt rs ∧ n = (s.x rs).toNat % 32) →
      ∃ t v, exec i s = .next t ∧ WritesRegister (some dest) v none s t ∧ v.toNat = (s.x rt).toNat / 2 ^ n) ∧
    ((∃ shamt : BitVec 5, i = .sra dest rt shamt ∧ n = shamt.toNat) ∨ (∃ rs, i = .srav dest rt rs ∧ n = (s.x rs).toNat % 32) →
      ∃ t v, exec i s = .next t ∧ WritesRegister (some dest) v none s t ∧ v.toInt = (s.x rt).toInt / 2 ^ n)

/-- R276: LUI writes the immediate in the upper half and zeros in the lower. -/
def Obligations.LoadUpperImmediate : Prop :=
  ∀ (s : State) (rt : Reg) (imm : Imm),
    ∃ t v, exec (.lui rt imm) s = .next t ∧ WritesRegister (some rt) v none s t ∧ v.toNat = imm.toNat * 2 ^ 16

/-! Multiply, divide, HI and LO. -/

/-- R221, R222: HI and LO together are the exact product, signed or unsigned. -/
def Obligations.ProductFillsHiAndLo : Prop :=
  ∀ (s : State) (rs rt : Reg),
    (∃ t hi lo, exec (.mult rs rt) s = .next t ∧ WritesHiLo hi lo s t ∧ t.draws = s.draws ∧
      (hi ++ lo).toInt = (s.x rs).toInt * (s.x rt).toInt) ∧
    (∃ t hi lo, exec (.multu rs rt) s = .next t ∧ WritesHiLo hi lo s t ∧ t.draws = s.draws ∧
      (hi ++ lo).toNat = (s.x rs).toNat * (s.x rt).toNat)

/-- R223, R224: the quotient, rounded toward zero, in LO and the remainder, with the dividend's sign, in HI; a division by zero completes
with the pair that the free value of this draw gives, whatever it is, and changes nothing else.
Rests on the spec's own decision D14 (92_eei_decisions.md) and notes/assumptions 7. -/
def Obligations.DivisionFillsHiAndLo : Prop :=
  ∀ (s : State) (rs rt : Reg),
    ((s.x rt).toInt ≠ 0 →
      ∃ t q r, exec (.div rs rt) s = .next t ∧ WritesHiLo (BitVec.ofInt 32 r) (BitVec.ofInt 32 q) s t ∧ t.draws = s.draws ∧
        (s.x rs).toInt = q * (s.x rt).toInt + r ∧ r.natAbs < (s.x rt).toInt.natAbs ∧
        (0 ≤ (s.x rs).toInt → 0 ≤ r) ∧ ((s.x rs).toInt ≤ 0 → r ≤ 0)) ∧
    ((s.x rt).toNat ≠ 0 →
      ∃ t hi lo, exec (.divu rs rt) s = .next t ∧ WritesHiLo hi lo s t ∧ t.draws = s.draws ∧
        lo.toNat = (s.x rs).toNat / (s.x rt).toNat ∧ hi.toNat = (s.x rs).toNat % (s.x rt).toNat) ∧
    (s.x rt = 0#32 →
      (∃ t, exec (.div rs rt) s = .next t ∧ WritesHiLo (Config.div0Result s.draws).1 (Config.div0Result s.draws).2 s t ∧
        t.draws = s.draws + 1) ∧
      (∃ t, exec (.divu rs rt) s = .next t ∧ WritesHiLo (Config.div0Result s.draws).1 (Config.div0Result s.draws).2 s t ∧
        t.draws = s.draws + 1))

/-- R225 to R228: the moves from and to HI and LO; MTHI leaves LO and MTLO leaves HI. -/
def Obligations.HiLoMoves : Prop :=
  ∀ (s : State) (r : Reg),
    (∃ t, exec (.mfhi r) s = .next t ∧ WritesRegister (some r) s.hi none s t) ∧
    (∃ t, exec (.mflo r) s = .next t ∧ WritesRegister (some r) s.lo none s t) ∧
    (∃ t, exec (.mthi r) s = .next t ∧ WritesHiLo (s.x r) s.lo s t ∧ t.draws = s.draws) ∧
    (∃ t, exec (.mtlo r) s = .next t ∧ WritesHiLo s.hi (s.x r) s t ∧ t.draws = s.draws)

/-! Loads and stores. -/

/-- R237 to R241, R235, R236, R72: the five loads, in every case of the effective address: a misaligned one takes `UnalignedAccess`, an unmapped
one `BusError`, one in RAM loads the big-endian value that the data side sees, extended, and leaves every byte as it was, one in a
peripheral range loads the free value that its device gives at its offset in the range for this draw. Registers other than `rt` keep their values.
Rests on the spec's own decisions D6, D7, D19, D23 (92_eei_decisions.md) and notes/assumptions 8. -/
def Obligations.LoadsReadBigEndianValues : Prop :=
  ∀ (s : State) (rt rs : Reg) (imm : Imm) (i : Instr) (n : Width) (signed : Bool),
    ((i = .lb rt imm rs ∧ n = .byte ∧ signed = true) ∨ (i = .lbu rt imm rs ∧ n = .byte ∧ signed = false) ∨
     (i = .lh rt imm rs ∧ n = .half ∧ signed = true) ∨ (i = .lhu rt imm rs ∧ n = .half ∧ signed = false) ∨
     (i = .lw rt imm rs ∧ n = .word ∧ signed = false)) →
    let ea := effectiveAddress (s.x rs) imm
    (ea.toNat % widthBytes n ≠ 0 → ∃ t, exec i s = .next t ∧ Traps (.unalignedAccess .load) 4#5 (some ea) s t) ∧
    (ea.toNat % widthBytes n = 0 → rangeOf s.cfg ea = none →
      ∃ t, exec i s = .next t ∧ Traps (.busError .data) 7#5 (some ea) s t) ∧
    (ea.toNat % widthBytes n = 0 → s.inRam ea → DataInv s →
      ∃ t v, exec i s = .next t ∧ GprWritten (some rt) v s t ∧ HiLoKept s t ∧ Cp0Kept s t ∧ DataKept s t ∧ MachineKept s t ∧
        PcMoved none s t ∧ t.draws = s.draws ∧
        (if signed then v.toInt = ((s.dataValue ea n).toNat : Int).bmod (2 ^ (8 * widthBytes n)) else v = s.dataValue ea n)) ∧
    (∀ r device, ea.toNat % widthBytes n = 0 → rangeOf s.cfg ea = some r → r.backend = .peripheral device → s.cfg.wellFormed = true →
      ∃ t v, exec i s = .next t ∧ GprWritten (some rt) v s t ∧ HiLoKept s t ∧ Cp0Kept s t ∧ MemoryKept s t ∧ MachineKept s t ∧
        PcMoved none s t ∧ t.draws = s.draws + 1 ∧
        (let u := (Config.periphRead s.draws device (ea.toNat - r.lo) n .cpu).toNat % 2 ^ (8 * widthBytes n)
         if signed then v.toInt = (u : Int).bmod (2 ^ (8 * widthBytes n)) else v.toNat = u))

/-- R242 to R244, R235, R236, R64, R72: the three stores, in every case of the effective address: a misaligned one takes `UnalignedAccess`, an
unmapped one `BusError`, neither changing memory; one in RAM puts the low bytes of `rt`, the most significant first, at the
effective address, and every other byte that the data side sees is unchanged; one in a peripheral range has no effect the core can
rely on. No register changes.
Rests on the spec's own decisions D6, D7, D19, D23, D39 (92_eei_decisions.md) and notes/assumptions 8. -/
def Obligations.StoresChangeOnlyTheirBytes : Prop :=
  ∀ (s : State) (rt rs : Reg) (imm : Imm) (i : Instr) (n : Width),
    ((i = .sb rt imm rs ∧ n = .byte) ∨ (i = .sh rt imm rs ∧ n = .half) ∨ (i = .sw rt imm rs ∧ n = .word)) →
    let ea := effectiveAddress (s.x rs) imm
    (ea.toNat % widthBytes n ≠ 0 → ∃ t, exec i s = .next t ∧ Traps (.unalignedAccess .store) 5#5 (some ea) s t) ∧
    (ea.toNat % widthBytes n = 0 → rangeOf s.cfg ea = none →
      ∃ t, exec i s = .next t ∧ Traps (.busError .data) 7#5 (some ea) s t) ∧
    (ea.toNat % widthBytes n = 0 → s.inRam ea → DataInv s →
      ∃ t, exec i s = .next t ∧ GprWritten none 0#32 s t ∧ HiLoKept s t ∧ Cp0Kept s t ∧ MachineKept s t ∧ PcMoved none s t ∧
        t.draws = s.draws ∧ t.iCache = s.iCache ∧ (∀ b, touches ea n b → t.dataByte b = storedByte (s.x rt) ea b n) ∧
        (∀ b, ¬ touches ea n b → t.dataByte b = s.dataByte b)) ∧
    (ea.toNat % widthBytes n = 0 → s.inPeripheral ea → s.cfg.wellFormed = true →
      ∃ t, exec i s = .next t ∧ WritesRegister none 0#32 none s t)

/-! Branches and jumps. Each is stated where it is not in the delay slot of a taken one; there it is refused (the statement
`ControlTransferInDelaySlotIsRefused`). -/

/-- R252 to R257, R251, R265, R303: the conditional branches transfer to `pc + 4 + 4·imm` exactly when their condition holds. -/
def Obligations.ConditionalBranchesTransferOnTheirCondition : Prop :=
  ∀ (s : State) (i : Instr) (imm : Imm) (cond : Prop),
    (s.cfg.delaySlot = true → s.pendingTarget = none) →
    ((∃ rs rt, i = .beq rs rt imm ∧ cond = (s.x rs = s.x rt)) ∨ (∃ rs rt, i = .bne rs rt imm ∧ cond = (s.x rs ≠ s.x rt)) ∨
     (∃ rs, i = .blez rs imm ∧ cond = ((s.x rs).toInt ≤ 0)) ∨ (∃ rs, i = .bgtz rs imm ∧ cond = ((s.x rs).toInt > 0)) ∨
     (∃ rs, i = .bltz rs imm ∧ cond = ((s.x rs).toInt < 0)) ∨ (∃ rs, i = .bgez rs imm ∧ cond = ((s.x rs).toInt ≥ 0))) →
    (cond → ∃ t, exec i s = .next t ∧
      WritesRegister none 0#32 (some (BitVec.ofInt 32 ((s.pc.toNat : Int) + 4 + 4 * imm.toInt))) s t) ∧
    (¬ cond → ∃ t, exec i s = .next t ∧ WritesRegister none 0#32 none s t)

/-- R258, R259, R260, R261, R250, R251, R303: BLTZAL and BGEZAL write the link to register 31 whether or not they are taken, JAL writes it and jumps,
J jumps; the condition is read before the link is written; a jump keeps the top four bits of `pc + 4`.
Rests on the spec's own decisions D16, D28 (92_eei_decisions.md). -/
def Obligations.LinkingTransfersWriteTheLink : Prop :=
  ∀ (s : State) (rs : Reg) (imm : Imm) (index : Index),
    (s.cfg.delaySlot = true → s.pendingTarget = none) →
    let link := if s.cfg.delaySlot then s.pc + 8#32 else s.pc + 4#32
    let branch := BitVec.ofInt 32 ((s.pc.toNat : Int) + 4 + 4 * imm.toInt)
    let jump := BitVec.ofNat 32 ((s.pc + 4#32).toNat / 2 ^ 28 * 2 ^ 28 + index.toNat * 4)
    ((s.x rs).toInt < 0 →
      (∃ t, exec (.bltzal rs imm) s = .next t ∧ WritesRegister (some 31#5) link (some branch) s t) ∧
      (∃ t, exec (.bgezal rs imm) s = .next t ∧ WritesRegister (some 31#5) link none s t)) ∧
    ((s.x rs).toInt ≥ 0 →
      (∃ t, exec (.bltzal rs imm) s = .next t ∧ WritesRegister (some 31#5) link none s t) ∧
      (∃ t, exec (.bgezal rs imm) s = .next t ∧ WritesRegister (some 31#5) link (some branch) s t)) ∧
    (∃ t, exec (.j index) s = .next t ∧ WritesRegister none 0#32 (some jump) s t) ∧
    (∃ t, exec (.jal index) s = .next t ∧ WritesRegister (some 31#5) link (some jump) s t)

/-- R262, R263, R264, R250, R303: JR and JALR jump to the value `rs` held before, JALR writing the link to `rd`; a target that is not a multiple
of 4 takes `UnalignedJump` with code 4 and BadVAddr the target, and JALR then writes no link.
Rests on the spec's own decisions D6, D16, D18, D28 (92_eei_decisions.md). -/
def Obligations.RegisterJumpsCheckTheirTarget : Prop :=
  ∀ (s : State) (rd rs : Reg),
    (s.cfg.delaySlot = true → s.pendingTarget = none) →
    let link := if s.cfg.delaySlot then s.pc + 8#32 else s.pc + 4#32
    ((s.x rs).toNat % 4 = 0 →
      (∃ t, exec (.jr rs) s = .next t ∧ WritesRegister none 0#32 (some (s.x rs)) s t) ∧
      (∃ t, exec (.jalr rd rs) s = .next t ∧ WritesRegister (some rd) link (some (s.x rs)) s t)) ∧
    ((s.x rs).toNat % 4 ≠ 0 →
      (∃ t, exec (.jr rs) s = .next t ∧ Traps .unalignedJump 4#5 (some (s.x rs)) s t) ∧
      (∃ t, exec (.jalr rd rs) s = .next t ∧ Traps .unalignedJump 4#5 (some (s.x rs)) s t))

/-- R266: an instruction is refused as a control transfer in a delay slot exactly when it is one of the twelve, the delay slot is
configured, and the target of a taken transfer is waiting.
Rests on the spec's own decision D17 (92_eei_decisions.md). -/
def Obligations.ControlTransferInDelaySlotIsRefused : Prop :=
  ∀ (s : State) (i : Instr),
    exec i s = .refused .controlInDelaySlot ↔
      TransfersControl i ∧ s.cfg.delaySlot = true ∧ ∃ p, s.pendingTarget = some p

/-! System and Coprocessor 0. -/

/-- R286, R287: SYSCALL halts where register 2 holds 10, changing nothing but the status, and takes `Syscall`, code 8, otherwise; BREAK takes
`Break`, code 9; the code field has no effect.
Rests on the spec's own decisions D6, D10, D13 (92_eei_decisions.md). -/
def Obligations.SyscallHaltsOrTrapsAndBreakTraps : Prop :=
  ∀ (s : State) (code : Code),
    (s.x 2#5 = 10#32 → exec (.syscall code) s = .next { s with run := .halted }) ∧
    (s.x 2#5 ≠ 10#32 → ∃ t, exec (.syscall code) s = .next t ∧ Traps .syscall 8#5 none s t) ∧
    (∃ t, exec (.brk code) s = .next t ∧ Traps .brk 9#5 none s t)

/-- R288, R289, R29, R34: MFC0 reads and MTC0 writes, all 32 bits, the register that the pair names; a pair outside `CP0_SET` is refused.
Rests on the spec's own decisions D5, D27 (92_eei_decisions.md). -/
def Obligations.Cp0MovesReachTheFourRegisters : Prop :=
  ∀ (s : State) (rt rd : Reg) (sel : Sel),
    (∀ c, ((c = .badVAddr ∧ rd = 8#5 ∧ sel = 0#3) ∨ (c = .status ∧ rd = 12#5 ∧ sel = 0#3) ∨ (c = .cause ∧ rd = 13#5 ∧ sel = 0#3) ∨
        (c = .epc ∧ rd = 14#5 ∧ sel = 0#3)) →
      (∃ t, exec (.mfc0 rt rd sel) s = .next t ∧ WritesRegister (some rt) (s.cp0 c) none s t) ∧
      (∃ t, exec (.mtc0 rt rd sel) s = .next t ∧ t.cp0 c = s.x rt ∧ (∀ d, d ≠ c → t.cp0 d = s.cp0 d) ∧ GprWritten none 0#32 s t ∧
        HiLoKept s t ∧ MemoryKept s t ∧ MachineKept s t ∧ PcMoved none s t ∧ t.draws = s.draws)) ∧
    (¬ (sel = 0#3 ∧ (rd = 8#5 ∨ rd = 12#5 ∨ rd = 13#5 ∨ rd = 14#5)) →
      exec (.mfc0 rt rd sel) s = .refused (.cp0NotImplemented rd sel) ∧
      exec (.mtc0 rt rd sel) s = .refused (.cp0NotImplemented rd sel))

/-! The pipelined core. -/

/-- R302, R326, R330: both cores run the same operation block. The single-cycle meaning of an instruction is the commit, to the destination of
R326, of the block on the values of the ports of R326. EX of the pipelined core, given an instruction at the same address with the same
port values, after forwarding, and the same HI, LO and Coprocessor 0, stops or goes on as the same block says, with its effects; a control
transfer in the delay slot of a taken one it refuses, as the single-cycle core does.
Rests on the spec's own decision D17 (92_eei_decisions.md). -/
def Obligations.BothCoresRunTheSameOperations : Prop :=
  (∀ (i : Instr) (s : State),
    (TransfersControl i → exec i s = commitControl (destOf i) (operate i (s.port (portA i)) (s.port (portB i)) s.pc s) s) ∧
    (¬ TransfersControl i → exec i s = commit (destOf i) (operate i (s.port (portA i)) (s.port (portB i)) s.pc s) s)) ∧
  (∀ (i : Instr) (s p : State) (q : IdExSlot) (a b : Word),
    p.idEx = .slot q → q.payload = .inst i a b → p.cfg.haltAddr ≠ some q.pc →
    (p.exDelaySlot = true → TransfersControl i → exStage p = .refuse .controlInDelaySlot) ∧
    ((p.exDelaySlot = true → ¬ TransfersControl i) →
      q.pc = s.pc → p.fwd (portA i) a = s.port (portA i) → p.fwd (portB i) b = s.port (portB i) →
      p.cfg.delaySlot = s.cfg.delaySlot → p.hi = s.hi → p.lo = s.lo → (∀ c, p.cp0 c = s.cp0 c) → p.draws = s.draws →
      exStage p = match operate i (s.port (portA i)) (s.port (portB i)) s.pc s with
        | .trap k address => .trap s.pc k address
        | .halt => .halt s.pc
        | .refuse r => .refuse r
        | .done e => .ok (.slot { pc := s.pc, instr := i, result := e.result, memop := e.memop, dest := destOf i }) e.target
            { p.applySpecial e with exDelaySlot := s.cfg.delaySlot && e.target.isSome }))

/-- R331: what EX sees of a register: with forwarding, the result in EX/MEM before the value in MEM/WB before the value read in ID; without, and
for register 0, the value read in ID. -/
def Obligations.ForwardingTakesTheYoungerResult : Prop :=
  ∀ (s : State) (r : Reg) (v : Word),
    (s.cfg.hazardUnit = .forward → r ≠ 0#5 →
      (∀ q u, s.exMem = .slot q → q.dest = some r → isLoad q.instr = false → q.result = some u → s.fwd (some r) v = u) ∧
      (∀ q u, (∀ p, s.exMem = .slot p → p.dest ≠ some r) → s.memWb = .slot q → q.dest = some r → q.value = some u →
        s.fwd (some r) v = u) ∧
      ((∀ p, s.exMem = .slot p → p.dest ≠ some r) → (∀ p, s.memWb = .slot p → p.dest ≠ some r) → s.fwd (some r) v = v)) ∧
    (s.cfg.hazardUnit ≠ .forward → s.fwd (some r) v = v) ∧ s.fwd (some 0#5) v = v ∧ s.fwd none v = v

/-- R342, R328, R330, R332, R333, R337, R340: a cycle without a stall, a redirect or a stop moves every instruction one stage on: the result in MEM/WB
is written, MEM makes its access, if it has one, and passes its result to MEM/WB, the instruction in ID/EX leaves its effects and its
result, the one in IF/ID is decoded with its port values read after WB, and the word at PC, which is not in a peripheral range, is
fetched. A data access is among the cases wherever one of the caches is enabled, for then it holds nothing.
Rests on the spec's own decisions D17, D32, D33, D37 (92_eei_decisions.md) and notes/assumptions 14. -/
def Obligations.PipelineMovesEveryInstructionOneStage : Prop :=
  ∀ (s m s' : State) (mw : Latch MemWbSlot) (x : IdExSlot) (d : IfIdSlot) (i j : Instr) (a b w u : Word) (eff : Effects),
    s.run = .running → s.cfg.wellFormed = true → s.cfg.pipelined = true → s.pc.toNat % 4 = 0 →
    memStage s.writeBack = .ok mw m →
    (s.cfg.iCache.enabled = true ∨ s.cfg.dCache.enabled = true ∨ ∀ e, s.exMem = .slot e → e.memop = none) →
    s.idEx = .slot x → s.cfg.haltAddr ≠ some x.pc → x.payload = .inst i a b → (s.exDelaySlot = true → ¬ TransfersControl i) →
    operate i (s.fwd (portA i) a) (s.fwd (portB i) b) x.pc m = .done eff → eff.target = none →
    s.ifId = .slot d → d.payload = .word w → decode w = some j → s.dataStall j = false →
    State.fetchWord s.mem s.pc m = .ok u s' → s'.draws = m.draws →
    ∃ t, step s = .next t ∧ (∀ r, t.x r = s.writeBack.x r) ∧
      t.hi = eff.hi.getD s.hi ∧ t.lo = eff.lo.getD s.lo ∧ (∀ c, t.cp0 c = match eff.cp0 with
        | some (c', v) => if c = c' then v else s.cp0 c
        | none => s.cp0 c) ∧
      t.memWb = mw ∧
      (∀ e, s.exMem = .slot e → e.memop = none → mw = .slot { pc := e.pc, instr := e.instr, value := e.result, dest := e.dest }) ∧
      t.exMem = .slot { pc := x.pc, instr := i, result := eff.result, memop := eff.memop, dest := destOf i } ∧
      t.idEx = .slot { pc := d.pc, payload := .inst j (s.writeBack.port (portA j)) (s.writeBack.port (portB j)) } ∧
      t.ifId = .slot { pc := s.pc, payload := .word u } ∧
      t.pc = (match s.pendingRedirect with
        | some p => p
        | none => s.pc + 4#32) ∧
      t.pendingRedirect = none ∧ t.exDelaySlot = false ∧ t.mem = m.mem ∧ t.dCache = m.dCache ∧ t.iCache = s'.iCache ∧ t.run = .running

/-- R324, R328, R333: the register that WB writes in a cycle is read with its new value by ID in the same cycle.
Rests on the spec's own decision D33 (92_eei_decisions.md). -/
def Obligations.WriteBackIsSeenByDecodeInTheSameCycle : Prop :=
  ∀ (s : State) (q : MemWbSlot) (d : IfIdSlot) (i : Instr) (r : Reg) (v w : Word),
    s.run = .running → s.cfg.wellFormed = true → s.cfg.pipelined = true → s.pc.toNat % 4 = 0 →
    s.memWb = .slot q → q.dest = some r → q.value = some v → r ≠ 0#5 → s.exMem = .bubble → s.idEx = .bubble →
    s.ifId = .slot d → d.payload = .word w → decode w = some i →
    ∃ t a b, step s = .next t ∧ t.x r = v ∧ (∀ q', q' ≠ r → t.x q' = s.x q') ∧
      t.idEx = .slot { pc := d.pc, payload := .inst i a b } ∧
      (portA i = some r → a = v) ∧ (portB i = some r → b = v) ∧
      (∀ q', portA i = some q' → q' ≠ r → a = s.x q') ∧ (∀ q', portB i = some q' → q' ≠ r → b = s.x q')

/-- R334, R340: with `hazard_unit = forward`, an instruction whose source is the destination of a load directly ahead is held for exactly one
cycle: a bubble enters ID/EX, IF/ID and PC are held, and in the cycle after that, if it does not stop the machine, the instruction
enters ID/EX. -/
def Obligations.LoadUseInsertsOneBubble : Prop :=
  ∀ (s t : State) (x : IdExSlot) (d : IfIdSlot) (j i : Instr) (a b w : Word) (r : Reg),
    s.run = .running → s.cfg.pipelined = true → s.cfg.hazardUnit = .forward →
    s.idEx = .slot x → x.payload = .inst j a b → isLoad j = true → destOf j = some r → r ≠ 0#5 →
    s.ifId = .slot d → d.payload = .word w → decode w = some i → (portA i = some r ∨ portB i = some r) →
    step s = .next t → t.run = .running →
    t.idEx = .bubble ∧ t.ifId = s.ifId ∧ t.pc = s.pc ∧
    ∀ u, step t = .next u → u.run = .running → ∃ a' b', u.idEx = .slot { pc := d.pc, payload := .inst i a' b' }

/-- R335, R340: with `hazard_unit = stall`, while an instruction in ID/EX or EX/MEM is to write one of its sources, an instruction in IF/ID does
not enter ID/EX: a bubble does; and, unless a control transfer is in EX, it and PC are held.
Rests on the spec's own decision D36 (92_eei_decisions.md). -/
def Obligations.StallUnitHoldsTheConsumer : Prop :=
  ∀ (s t : State) (d : IfIdSlot) (i : Instr) (w : Word) (r : Reg),
    s.run = .running → s.cfg.pipelined = true → s.cfg.hazardUnit = .stall → r ≠ 0#5 →
    ((∃ x j a b, s.idEx = .slot x ∧ x.payload = .inst j a b ∧ destOf j = some r) ∨ (∃ e, s.exMem = .slot e ∧ e.dest = some r)) →
    s.ifId = .slot d → d.payload = .word w → decode w = some i → (portA i = some r ∨ portB i = some r) →
    step s = .next t → t.run = .running →
    t.idEx = .bubble ∧
    ((∀ x j a b, s.idEx = .slot x → x.payload = .inst j a b → ¬ TransfersControl j) → t.ifId = s.ifId ∧ t.pc = s.pc)

/-- R337, R340, R354: with both caches disabled, IF does not fetch in a cycle in which MEM makes a data access. Where no control transfer is in EX, PC
and the pending redirect are held, and ID is not: the instruction in IF/ID goes to ID/EX and a bubble enters IF/ID, unless a data hazard
holds it too. Where a taken transfer with a delay slot is in EX and its delay slot has not been fetched, PC is held and the target waits.
Rests on the spec's own decisions D32, D33, D37 (92_eei_decisions.md). -/
def Obligations.DataAccessHoldsFetchWithoutCaches : Prop :=
  ∀ (s t : State) (e : ExMemSlot) (op : MemOp),
    s.run = .running → s.cfg.pipelined = true → s.cfg.iCache.enabled = false → s.cfg.dCache.enabled = false →
    s.exMem = .slot e → e.memop = some op → step s = .next t → t.run = .running →
    t.iCache = s.iCache ∧
    ((∀ x j a b, s.idEx = .slot x → x.payload = .inst j a b → ¬ TransfersControl j) →
      t.pc = s.pc ∧ t.pendingRedirect = s.pendingRedirect ∧
      (s.ifId = .bubble → t.ifId = .bubble ∧ t.idEx = .bubble) ∧
      (∀ d w i, s.ifId = .slot d → d.payload = .word w → decode w = some i →
        (s.dataStall i = false → t.ifId = .bubble ∧
          t.idEx = .slot { pc := d.pc, payload := .inst i (s.writeBack.port (portA i)) (s.writeBack.port (portB i)) }) ∧
        (s.dataStall i = true → t.ifId = s.ifId ∧ t.idEx = .bubble))) ∧
    (∀ x j a b m eff target, s.idEx = .slot x → x.payload = .inst j a b →
      operate j (s.fwd (portA j) a) (s.fwd (portB j) b) x.pc m = .done eff → eff.target = some target →
      s.cfg.delaySlot = true → s.ifId = .bubble →
      t.pc = s.pc ∧ t.pendingRedirect = some target ∧ t.ifId = .bubble ∧ t.idEx = .bubble)

/-- R340, R341: a taken branch or jump in EX. Without a delay slot both younger instructions are flushed; with one, the instruction in IF/ID is its
delay slot and goes on (or is held), the fetch behind it is dropped. PC takes the target.
Rests on the spec's own decision D32 (92_eei_decisions.md). -/
def Obligations.TakenTransferFlushesTheYounger : Prop :=
  ∀ (s t : State) (x : IdExSlot) (i : Instr) (a b target : Word) (eff : Effects),
    s.run = .running → s.cfg.pipelined = true → s.idEx = .slot x → x.payload = .inst i a b →
    operate i (s.fwd (portA i) a) (s.fwd (portB i) b) x.pc s = .done eff → eff.target = some target →
    step s = .next t → t.run = .running →
    (s.cfg.delaySlot = false → t.ifId = .bubble ∧ t.idEx = .bubble ∧ t.pc = target ∧ t.exDelaySlot = false) ∧
    (s.cfg.delaySlot = true → t.exDelaySlot = true ∧
      (∀ d, s.ifId = .slot d → t.pc = target ∧
        ((t.idEx = .bubble ∧ t.ifId = s.ifId) ∨ (t.ifId = .bubble ∧ ∃ p, t.idEx = .slot { pc := d.pc, payload := p }))) ∧
      (s.ifId = .bubble → t.idEx = .bubble ∧
        ((t.pc = target ∧ t.pendingRedirect = none ∧ ∃ p, t.ifId = .slot { pc := s.pc, payload := p }) ∨
         (t.pc = s.pc ∧ t.pendingRedirect = some target ∧ t.ifId = .bubble))))

/-- R332, R80: the pipelined core changes memory, as the data side sees it, in MEM only: a byte that a step changes is one that the store in
EX/MEM touches, and it becomes the byte stored. -/
def Obligations.PipelineStoresInMemOnly : Prop :=
  ∀ (s t : State) (a : Word), DataInv s → s.cfg.pipelined = true → step s = .next t →
    t.dataByte a = s.dataByte a ∨
    ∃ e ea n v, s.exMem = .slot e ∧ e.memop = some (.store ea n v) ∧ touches ea n a ∧ t.dataByte a = storedByte v ea a n

/-! Memory and caches. -/

/-- R66, R64, R117: a read of RAM, through the data cache or not, yields the big-endian value the data side sees and changes no byte of it. -/
def Obligations.ReadsReturnTheDataSideValue : Prop :=
  ∀ (s s' : State) (a v : Word) (n : Width), DataInv s → s.inRam a → s.memRead a n = .ok v s' →
    v = s.dataValue a n ∧ (∀ b, s'.dataByte b = s.dataByte b) ∧ DataInv s'

/-- R67, R64, R110 to R113, R117: a write of RAM, under every write policy or without a cache, changes the bytes of the access and no
other that the data side sees.
Rests on the spec's own decision D39 (92_eei_decisions.md). -/
def Obligations.WritesChangeTheDataSideBytes : Prop :=
  ∀ (s s' : State) (a v : Word) (n : Width), DataInv s → s.inRam a → s.memWrite a v n = .ok s' →
    (∀ b, touches a n b → s'.dataByte b = storedByte v a b n) ∧ (∀ b, ¬ touches a n b → s'.dataByte b = s.dataByte b) ∧ DataInv s'

/-- R117: functional transparency. A single-cycle machine with any caches and one without, alike in all a program can see, stay so under
every instruction, and are refused alike. -/
def Obligations.CachesAreTransparentToPrograms : Prop :=
  ∀ (s t : State) (i : Instr), DataInv s → t.mem.wf = true → SeenAlike s t →
    (∀ s', exec i s = .next s' → ∃ t', exec i t = .next t' ∧ SeenAlike s' t' ∧ t'.mem.wf = true) ∧
    (∀ r, exec i s = .refused r → exec i t = .refused r) ∧ (∀ f, exec i s ≠ .fault f)

/-- R103, R115, R116, R101: every step of either core keeps the invariants of both caches, and no counter of their statistics falls. -/
def Obligations.StepKeepsCacheInvariants : Prop :=
  ∀ s t : State, DataInv s → step s = .next t →
    DataInv t ∧ StatsGrown s.iCache.stats t.iCache.stats ∧ StatsGrown s.dCache.stats t.dCache.stats

/-- R120: after `cache_flush` of the data cache no line is valid or dirty, RAM equals the view the data side had before, and the view is
unchanged.
Rests on the spec's own decision D38 (92_eei_decisions.md). -/
def Obligations.FlushMakesMemoryEqualToTheView : Prop :=
  ∀ s : State, DataInv s → s.cfg.dCache.enabled = true →
    (∀ i w, (s.flushData.dCache.line i w).valid = false ∧ (s.flushData.dCache.line i w).dirty = false) ∧
    (∀ a, s.flushData.mem.byte a = s.dataByte a) ∧ (∀ a, s.flushData.dataByte a = s.dataByte a) ∧ DataInv s.flushData

/-- R106: the victim: the invalid way of lowest index; else under LRU the smallest tick, under LFU the smallest count, the lowest way on a tie;
under RAND some way of the set.
Rests on the spec's own decision D20 (92_eei_decisions.md). -/
def Obligations.VictimIsChosenByPolicy : Prop :=
  ∀ (c : CacheCfg) (side : CacheSide) (k : Cache) (s : Nat), (k.ways s).length = c.ways → 1 ≤ c.ways →
    let w := k.victim c side s
    w < c.ways ∧
    ((∃ j, j < c.ways ∧ (k.line s j).valid = false) → (k.line s w).valid = false ∧ ∀ j, j < w → (k.line s j).valid = true) ∧
    ((∀ j, j < c.ways → (k.line s j).valid = true) →
      (c.replacement = .lru → ∀ j, j < c.ways → (k.line s w).lastTick ≤ (k.line s j).lastTick ∧
        (j < w → (k.line s w).lastTick < (k.line s j).lastTick)) ∧
      (c.replacement = .lfu → ∀ j, j < c.ways → (k.line s w).count ≤ (k.line s j).count ∧
        (j < w → (k.line s w).count < (k.line s j).count)))

/-- R102: the block of the tag and the set of an address is the block that holds it, for any geometry; offset and block give the word back. -/
def Obligations.TagAndSetNameTheBlock : Prop :=
  ∀ (c : CacheCfg) (a : Word), 1 ≤ c.sets → 1 ≤ c.words →
    (lineBase c (tagIndex c a) (setIndex c a)).toNat = a.toNat - a.toNat % (4 * c.words) ∧
    (lineBase c (tagIndex c a) (setIndex c a)).toNat + 4 * blockOffset c a + a.toNat % 4 = a.toNat ∧
    setIndex c a < c.sets ∧ blockOffset c a < c.words

/-- R126: the source's LRU scenario, with one set of two ways of one word: reads of 0, 4, 0, 8, 4 miss, miss, hit, miss, miss, and leave the tags
1 and 2.
The final tags and the counters are the spec's own correction of its source (90_conflicts.md C2) and derived there; the first misses go to invalid
ways by the spec's own decision D20 (92_eei_decisions.md). -/
def Obligations.LruScenarioOfTheSource : Prop :=
  let c : CacheCfg := { enabled := true, sets := 1, words := 1, ways := 2, replacement := .lru, writePolicy := .writeBack }
  let read (k : Cache) (a : Word) : Cache := (k.readWord c .data [] a).2.1
  let k1 := read (Cache.reset c) 0#32
  let k2 := read k1 4#32
  let k3 := read k2 0#32
  let k4 := read k3 8#32
  let k5 := read k4 4#32
  (k1.stats.misses = 1 ∧ k2.stats.misses = 2 ∧ k3.stats.hits = 1 ∧ k3.stats.misses = 2 ∧ k4.stats.misses = 3 ∧ k5.stats.misses = 4) ∧
  k5.stats.hits = 1 ∧ k5.stats.memReads = 4 ∧ k5.stats.memWrites = 0 ∧
  (k5.line 0 0).tag = 1 ∧ (k5.line 0 1).tag = 2 ∧ (k5.line 0 0).valid = true ∧ (k5.line 0 1).valid = true

/-- R245, R64: after a store of a word to RAM, loads of the same word and of each of its bytes return it. -/
def Obligations.LoadAfterStoreReturnsTheBytes : Prop :=
  ∀ (s s' : State) (a v : Word), DataInv s → s.inRam a → s.memWrite a v .word = .ok s' →
    (∃ s'', s'.memRead a .word = .ok v s'') ∧
    (∀ k, k < 4 → ∃ s'', s'.memRead (a + BitVec.ofNat 32 k) .byte = .ok ((v.extractLsb' (24 - 8 * k) 8).setWidth 32) s'')

/-! The host's side. -/

/-- R70, R71: load-range writes its words to RAM one after another from START rounded down to 4, and no other byte. -/
def Obligations.LoadRangeWritesConsecutiveWords : Prop :=
  ∀ (s : State) (start : Word) (words : List Word),
    s.mem.wf = true → (wordBase start).toNat + 4 * words.length ≤ 2 ^ 32 →
    (∀ k, k < words.length → s.inRam (wordBase start + BitVec.ofNat 32 (4 * k))) →
    ∃ t, s.loadRange start words = some t ∧
      (∀ k (h : k < words.length), t.mem.word (wordBase start + BitVec.ofNat 32 (4 * k)) = words[k]) ∧
      (∀ b : Word, (b.toNat < (wordBase start).toNat ∨ (wordBase start).toNat + 4 * words.length ≤ b.toNat) →
        t.mem.byte b = s.mem.byte b)

/-- R178, R177, R279: the expansions of LI and LA leave exactly the constant in the register, for every constant.
Rests on the spec's own decision D26 (92_eei_decisions.md). -/
def Obligations.ConstantExpansionsLoadTheConstant : Prop :=
  ∀ (s : State) (rd : Reg) (v : Word), rd ≠ 0#5 →
    (∃ t, execAll (pseudoLi rd v) s = .next t ∧ t.x rd = v ∧ ∀ q, q ≠ rd → t.x q = s.x q) ∧
    (∃ t, execAll (pseudoLa rd v) s = .next t ∧ t.x rd = v ∧ ∀ q, q ≠ rd → t.x q = s.x q)

/-- R173, R251: the operands that the assembler stores for labels are the inverses of the targets: a branch or jump at `pc` has an operand that
reaches a label exactly where the assembler gives it one, and that one.
Rests on the spec's own decisions D42 and D48 (92_eei_decisions.md). -/
def Obligations.LabelOperandsReachTheirLabel : Prop :=
  ∀ pc label : Word,
    (∀ imm, branchOperand pc label = some imm ↔ branchTarget pc imm = label) ∧
    (∀ index, jumpOperand pc label = some index ↔ jumpTarget pc index = label)
end

