-- ==== Sys2Proof/Laws/Memory.lean ====
section
/-! SUPPORT. The laws of memory (20_memory.md R64, R69): every write keeps the canonical form, a read after a write to the same byte gives
the byte written, a write leaves every other byte alone; and the same for words and for bursts. -/

namespace Sys2Proof.Machine

/-! Keys. -/

theorem Memory.wfFrom_mono {m : Memory} {n k : Nat} (h : Memory.wfFrom n m = true) (hk : k ≤ n) : Memory.wfFrom k m = true := by
  cases m with
  | nil => rfl
  | cons c rest =>
    simp only [Memory.wfFrom, Bool.and_eq_true, decide_eq_true_eq] at h ⊢
    exact ⟨⟨⟨by omega, h.1.1.2⟩, h.1.2⟩, h.2⟩

theorem Memory.lookup_below {m : Memory} {n k : Nat} (h : Memory.wfFrom n m = true) (hk : k < n) :
    Memory.lookup k m = unwrittenByte := by
  cases m with
  | nil => rfl
  | cons c rest =>
    simp only [Memory.wfFrom, Bool.and_eq_true, decide_eq_true_eq] at h
    simp [Memory.lookup, show k < c.1 by omega]

theorem Memory.wfFrom_insert {m : Memory} {n k : Nat} {b : Byte} (h : Memory.wfFrom n m = true) (hn : n ≤ k)
    (hk : k < addressSpace) : Memory.wfFrom n (Memory.insert k b m) = true := by
  induction m generalizing n with
  | nil => by_cases hb : b = unwrittenByte <;> simp [Memory.insert, Memory.wfFrom, hb, hn, hk]
  | cons c rest ih =>
    obtain ⟨k', v⟩ := c
    have h' := h
    simp only [Memory.wfFrom, Bool.and_eq_true, decide_eq_true_eq] at h
    obtain ⟨⟨⟨h1, h2⟩, h3⟩, h4⟩ := h
    simp only [Memory.insert]
    split
    · split
      · exact h'
      · rename_i hlt hb
        simp only [Memory.wfFrom, Bool.and_eq_true, decide_eq_true_eq]
        exact ⟨⟨⟨hn, hk⟩, hb⟩, ⟨⟨⟨hlt, h2⟩, h3⟩, h4⟩⟩
    · split
      · rename_i he
        subst he
        split
        · exact Memory.wfFrom_mono h4 (by omega)
        · rename_i hb
          simp only [Memory.wfFrom, Bool.and_eq_true, decide_eq_true_eq]
          exact ⟨⟨⟨h1, h2⟩, hb⟩, h4⟩
      · rename_i hlt hne
        simp only [Memory.wfFrom, Bool.and_eq_true, decide_eq_true_eq]
        exact ⟨⟨⟨h1, h2⟩, h3⟩, ih h4 (by omega)⟩

theorem Memory.lookup_insert {m : Memory} {n k j : Nat} {b : Byte} (h : Memory.wfFrom n m = true) :
    Memory.lookup j (Memory.insert k b m) = if j = k then b else Memory.lookup j m := by
  induction m generalizing n with
  | nil =>
    by_cases hb : b = unwrittenByte <;> simp only [Memory.insert, hb, if_true, if_false, Memory.lookup] <;>
      (repeat' split) <;> first | rfl | omega
  | cons c rest ih =>
    obtain ⟨k', v⟩ := c
    simp only [Memory.wfFrom, Bool.and_eq_true, decide_eq_true_eq] at h
    obtain ⟨⟨⟨h1, h2⟩, h3⟩, h4⟩ := h
    have hlow : ∀ i, i ≤ k' → Memory.lookup i rest = unwrittenByte := fun i hi => Memory.lookup_below h4 (by omega)
    simp only [Memory.insert]
    split
    · split
      · rename_i hlt hb
        subst hb
        simp only [Memory.lookup]
        (repeat' split) <;> first | rfl | omega
      · simp only [Memory.lookup]
        (repeat' split) <;> first | rfl | omega
    · split
      · rename_i he
        subst he
        split
        · rename_i hb
          subst hb
          by_cases hj : j = k
          · simp [hj, hlow k (Nat.le_refl k)]
          · simp only [Memory.lookup, hj, if_false]
            split
            · exact hlow j (by omega)
            · rfl
        · simp only [Memory.lookup]
          (repeat' split) <;> first | rfl | omega
      · rename_i hnlt hne
        simp only [Memory.lookup, ih h4]
        (repeat' split) <;> first | rfl | omega

/-! Bytes. -/

/-- A write of a byte keeps the canonical form. -/
theorem Memory.wf_setByte {m : Memory} (h : m.wf = true) (a : Word) (b : Byte) : (m.setByte a b).wf = true :=
  Memory.wfFrom_insert h (Nat.zero_le _) a.isLt

/-- A read after a write of a byte. -/
theorem Memory.byte_setByte {m : Memory} (h : m.wf = true) (a c : Word) (b : Byte) :
    (m.setByte a b).byte c = if c = a then b else m.byte c := by
  have := Memory.lookup_insert (j := c.toNat) (k := a.toNat) (b := b) h
  simpa [Memory.byte, Memory.setByte, BitVec.toNat_inj] using this

theorem Memory.wf_nil : Memory.wf [] = true := rfl

theorem Memory.byte_nil (a : Word) : Memory.byte [] a = 0#8 := rfl

/-- The bytes of a word in address order give the word back. -/
@[simp] theorem wordOfBytes_byteOfWord (w : Word) :
    wordOfBytes (byteOfWord w 0) (byteOfWord w 1) (byteOfWord w 2) (byteOfWord w 3) = w := by
  apply BitVec.eq_of_getLsbD_eq
  intro i hi
  simp only [wordOfBytes, byteOfWord, BitVec.getLsbD_append, BitVec.getLsbD_extractLsb']
  interval_cases i <;> simp

/-- A word put together from bytes has those bytes. -/
theorem byteOfWord_wordOfBytes (b0 b1 b2 b3 : Byte) :
    byteOfWord (wordOfBytes b0 b1 b2 b3) 0 = b0 ∧ byteOfWord (wordOfBytes b0 b1 b2 b3) 1 = b1 ∧
    byteOfWord (wordOfBytes b0 b1 b2 b3) 2 = b2 ∧ byteOfWord (wordOfBytes b0 b1 b2 b3) 3 = b3 := by
  refine ⟨?_, ?_, ?_, ?_⟩ <;>
  · apply BitVec.eq_of_getLsbD_eq
    intro i hi
    simp only [wordOfBytes, byteOfWord, BitVec.getLsbD_append, BitVec.getLsbD_extractLsb']
    interval_cases i <;> simp

/-! Words and bursts. -/

/-- The byte of a word at the address of that byte. -/
theorem Memory.byteOfWord_word (m : Memory) (x : Word) (k : Nat) (hk : k < 4) :
    byteOfWord (m.word x) k = m.byte (x + BitVec.ofNat 32 k) := by
  obtain ⟨h0, h1, h2, h3⟩ := byteOfWord_wordOfBytes (m.byte x) (m.byte (x + 1#32)) (m.byte (x + 2#32)) (m.byte (x + 3#32))
  have : k = 0 ∨ k = 1 ∨ k = 2 ∨ k = 3 := by omega
  rcases this with rfl | rfl | rfl | rfl
  · simpa [Memory.word] using h0
  · simpa [Memory.word] using h1
  · simpa [Memory.word] using h2
  · simpa [Memory.word] using h3

theorem Memory.wf_setWord {m : Memory} (h : m.wf = true) (x v : Word) : (m.setWord x v).wf = true :=
  Memory.wf_setByte (Memory.wf_setByte (Memory.wf_setByte (Memory.wf_setByte h _ _) _ _) _ _) _ _

/-- The bytes after a write of a word at a multiple of 4. -/
theorem Memory.byte_setWord {m : Memory} (h : m.wf = true) {x : Word} (hx : x.toNat % 4 = 0) (v b : Word) :
    (m.setWord x v).byte b =
      if x.toNat ≤ b.toNat ∧ b.toNat < x.toNat + 4 then byteOfWord v (b.toNat - x.toNat) else m.byte b := by
  have w0 := Memory.wf_setByte h x (byteOfWord v 0)
  have w1 := Memory.wf_setByte w0 (x + 1#32) (byteOfWord v 1)
  have w2 := Memory.wf_setByte w1 (x + 2#32) (byteOfWord v 2)
  have hlt := x.isLt
  have e1 : (x + 1#32).toNat = x.toNat + 1 := by rw [BitVec.toNat_add]; simp; omega
  have e2 : (x + 2#32).toNat = x.toNat + 2 := by rw [BitVec.toNat_add]; simp; omega
  have e3 : (x + 3#32).toNat = x.toNat + 3 := by rw [BitVec.toNat_add]; simp; omega
  unfold Memory.setWord
  rw [Memory.byte_setByte w2, Memory.byte_setByte w1, Memory.byte_setByte w0, Memory.byte_setByte h]
  simp only [← BitVec.toNat_inj, e1, e2, e3]
  by_cases c3 : b.toNat = x.toNat + 3
  · simp [c3]
  · by_cases c2 : b.toNat = x.toNat + 2
    · simp [c2]
    · by_cases c1 : b.toNat = x.toNat + 1
      · simp [c1]
      · by_cases c0 : b.toNat = x.toNat
        · simp [c0]
        · simp only [c3, c2, c1, c0, if_false]
          rw [if_neg (by omega)]

theorem Memory.wf_writeBurst {m : Memory} (h : m.wf = true) (x : Word) (ws : List Word) : (m.writeBurst x ws).wf = true := by
  induction ws generalizing m x with
  | nil => exact h
  | cons w rest ih => exact ih (Memory.wf_setWord h x w) _

/-- The bytes after a burst that does not pass the top of the address space. -/
theorem Memory.byte_writeBurst {m : Memory} (h : m.wf = true) {x : Word} {ws : List Word} (hx : x.toNat % 4 = 0)
    (hl : x.toNat + 4 * ws.length ≤ 2 ^ 32) (b : Word) :
    (m.writeBurst x ws).byte b =
      if x.toNat ≤ b.toNat ∧ b.toNat < x.toNat + 4 * ws.length then
        byteOfWord (ws.getD ((b.toNat - x.toNat) / 4) 0#32) (b.toNat % 4)
      else m.byte b := by
  induction ws generalizing m x with
  | nil => simp only [Memory.writeBurst, List.length_nil]; rw [if_neg (by omega)]
  | cons w rest ih =>
    simp only [List.length_cons] at hl ⊢
    simp only [Memory.writeBurst]
    by_cases hr : rest = []
    · subst hr
      simp only [Memory.writeBurst, List.length_nil]
      rw [Memory.byte_setWord h hx]
      split
      · rename_i hb
        rw [show (b.toNat - x.toNat) / 4 = 0 by omega]
        simp only [List.getD_cons_zero]
        congr 1; omega
      · rfl
    · have hpos : 0 < rest.length := List.length_pos_of_ne_nil hr
      have e4 : (x + 4#32).toNat = x.toNat + 4 := by rw [BitVec.toNat_add]; simp; omega
      rw [ih (Memory.wf_setWord h x w) (by omega) (by omega), e4]
      split
      · rename_i hb
        rw [if_pos (by omega), show (b.toNat - x.toNat) / 4 = (b.toNat - (x.toNat + 4)) / 4 + 1 by omega]
        simp only [List.getD_cons_succ]
      · rename_i hb
        rw [Memory.byte_setWord h hx]
        split
        · rw [if_pos (by omega), show (b.toNat - x.toNat) / 4 = 0 by omega]
          simp only [List.getD_cons_zero]
          congr 1; omega
        · rw [if_neg (by omega)]

@[simp] theorem Memory.length_readBurst (m : Memory) (x : Word) (n : Nat) : (m.readBurst x n).length = n := by
  induction n generalizing x with
  | zero => rfl
  | succ n ih => simp [Memory.readBurst, ih]

/-- A word of a burst. -/
theorem Memory.getD_readBurst (m : Memory) (x : Word) {n i : Nat} (hi : i < n) :
    (m.readBurst x n).getD i 0#32 = m.word (x + BitVec.ofNat 32 (4 * i)) := by
  induction n generalizing x i with
  | zero => omega
  | succ n ih =>
    cases i with
    | zero => simp [Memory.readBurst]
    | succ i =>
      simp only [Memory.readBurst, List.getD_cons_succ]
      rw [ih (x + 4#32) (by omega)]
      congr 1
      rw [BitVec.add_assoc]
      congr 1
      apply BitVec.eq_of_toNat_eq
      simp [BitVec.toNat_add]
      congr 1
      omega

/-- Bursts of two memories that agree on the block are equal. -/
theorem Memory.readBurst_congr {m m' : Memory} {x : Word} {n : Nat} (hl : x.toNat + 4 * n ≤ 2 ^ 32)
    (h : ∀ b : Word, x.toNat ≤ b.toNat → b.toNat < x.toNat + 4 * n → m'.byte b = m.byte b) :
    m'.readBurst x n = m.readBurst x n := by
  induction n generalizing x with
  | zero => rfl
  | succ n ih =>
    have e (j : Nat) (hj : j < 4) : (x + BitVec.ofNat 32 j).toNat = x.toNat + j := by
      rw [BitVec.toNat_add, BitVec.toNat_ofNat]; omega
    have hw : m'.word x = m.word x := by
      have h0 := h x (by omega) (by omega)
      have h1 := h (x + 1#32) (by rw [e 1 (by omega)]; omega) (by rw [e 1 (by omega)]; omega)
      have h2 := h (x + 2#32) (by rw [e 2 (by omega)]; omega) (by rw [e 2 (by omega)]; omega)
      have h3 := h (x + 3#32) (by rw [e 3 (by omega)]; omega) (by rw [e 3 (by omega)]; omega)
      simp [Memory.word, h0, h1, h2, h3]
    simp only [Memory.readBurst, hw]
    congr 1
    by_cases hn : n = 0
    · subst hn; rfl
    · have e4 : (x + 4#32).toNat = x.toNat + 4 := by rw [BitVec.toNat_add]; simp; omega
      exact ih (by omega) (fun b hb1 hb2 => h b (by omega) (by omega))

/-! Accesses of a width. -/

theorem Memory.wf_write {m : Memory} (h : m.wf = true) (a v : Word) (n : Width) : (m.write a v n).wf = true := by
  cases n with
  | byte => exact Memory.wf_setByte h _ _
  | half => exact Memory.wf_setByte (Memory.wf_setByte h _ _) _ _
  | word => exact Memory.wf_setWord h _ _

/-- The bytes after an aligned write of a width: the most significant of the bytes written lies at the lowest address. -/
theorem Memory.byte_write {m : Memory} (h : m.wf = true) {a : Word} {n : Width} (ha : a.toNat % widthBytes n = 0) (v b : Word) :
    (m.write a v n).byte b =
      if a.toNat ≤ b.toNat ∧ b.toNat < a.toNat + widthBytes n then byteOfWord v (4 - widthBytes n + (b.toNat - a.toNat))
      else m.byte b := by
  have hlt := a.isLt
  have eq_iff (c : Word) : b = c ↔ b.toNat = c.toNat := BitVec.toNat_inj.symm
  split
  all_goals
    rename_i hb
    cases n <;> simp only [widthBytes] at ha hb ⊢
  · obtain rfl : b = a := (eq_iff a).2 (by omega)
    rw [Memory.write, Memory.byte_setByte h, if_pos rfl]
    simp
  · have e1 : (a + 1#32).toNat = a.toNat + 1 := by rw [BitVec.toNat_add]; simp; omega
    rw [Memory.write, Memory.byte_setByte (Memory.wf_setByte h _ _), Memory.byte_setByte h]
    by_cases c : b = a + 1#32
    · rw [if_pos c, c, e1]; congr 1; omega
    · have : b.toNat = a.toNat := by rw [eq_iff, e1] at c; omega
      rw [if_neg c, if_pos ((eq_iff a).2 this), this]; congr 1; omega
  · rw [Memory.write, Memory.byte_setWord h ha, if_pos hb]; congr 1; omega
  · rw [Memory.write, Memory.byte_setByte h, if_neg (by rw [eq_iff]; omega)]
  · have e1 : (a + 1#32).toNat = a.toNat + 1 := by rw [BitVec.toNat_add]; simp; omega
    rw [Memory.write, Memory.byte_setByte (Memory.wf_setByte h _ _), Memory.byte_setByte h,
      if_neg (by rw [eq_iff, e1]; omega), if_neg (by rw [eq_iff]; omega)]
  · rw [Memory.write, Memory.byte_setWord h ha, if_neg hb]

end Sys2Proof.Machine
end

