-- ==== Sys2Proof/Laws/Cache.lean ====
section
/-! SUPPORT. What the cache operations do (21_cache.md), said once: addressing (R102), a line after a line is replaced, hits (R105), the
victim's bounds (R106); and, for the byte that a cache and the memory behind it show (`Cache.seen`), what a hit, an allocation, a
read and a write leave. -/

namespace Sys2Proof.Machine

/-! Addressing. -/

/-- The number of the block of an address is given back by its tag and set. -/
theorem block_of_tag_set (c : CacheCfg) (a : Word) : tagIndex c a * c.sets + setIndex c a = a.toNat / (4 * c.words) := by
  unfold tagIndex setIndex
  rw [← Nat.div_div_eq_div_mul, Nat.mul_comm]
  exact Nat.div_add_mod _ _

theorem setIndex_lt (c : CacheCfg) (a : Word) (h : 1 ≤ c.sets) : setIndex c a < c.sets := Nat.mod_lt _ h

theorem blockOffset_lt (c : CacheCfg) (a : Word) (h : 1 ≤ c.words) : blockOffset c a < c.words := Nat.mod_lt _ h

/-- Two pairs of a tag and a set that name the same block are equal. -/
theorem tag_set_inj {c : CacheCfg} {t t' s s' : Nat} (hs : s < c.sets) (hs' : s' < c.sets) (h : t * c.sets + s = t' * c.sets + s') :
    t = t' ∧ s = s' := by
  have h1 : (t * c.sets + s) / c.sets = t := by
    rw [Nat.mul_comm, Nat.mul_add_div (by omega), Nat.div_eq_of_lt hs]; omega
  have h2 : (t' * c.sets + s') / c.sets = t' := by
    rw [Nat.mul_comm, Nat.mul_add_div (by omega), Nat.div_eq_of_lt hs']; omega
  have : t = t' := by rw [← h1, h, h2]
  subst this
  exact ⟨rfl, by omega⟩

/-- A block's number, a word of it and a byte of that word give the address. -/
theorem address_parts (c : CacheCfg) (a : Word) :
    (a.toNat / (4 * c.words)) * c.words * 4 + 4 * blockOffset c a + a.toNat % 4 = a.toNat := by
  have h1 := Nat.div_add_mod a.toNat 4
  have h2 := Nat.div_add_mod (a.toNat / 4) c.words
  have h3 : a.toNat / 4 / c.words = a.toNat / (4 * c.words) := Nat.div_div_eq_div_mul _ _ _
  unfold blockOffset
  rw [h3] at h2
  have h4 : a.toNat / (4 * c.words) * c.words = c.words * (a.toNat / (4 * c.words)) := Nat.mul_comm _ _
  omega

/-- The address lies in the block its tag and set name: bounds without wrapping. -/
theorem base_le (c : CacheCfg) (a : Word) (h : 1 ≤ c.words) :
    (tagIndex c a * c.sets + setIndex c a) * c.words * 4 ≤ a.toNat ∧
    a.toNat < (tagIndex c a * c.sets + setIndex c a) * c.words * 4 + 4 * c.words := by
  have h1 := address_parts c a
  have h2 := blockOffset_lt c a h
  rw [block_of_tag_set]
  omega

/-- An address inside a block has the block's tag and set. -/
theorem tag_set_of_mem {c : CacheCfg} {t s : Nat} {a : Word} (hs : s < c.sets) (h1 : (t * c.sets + s) * c.words * 4 ≤ a.toNat)
    (h2 : a.toNat < (t * c.sets + s) * c.words * 4 + 4 * c.words) : tagIndex c a = t ∧ setIndex c a = s := by
  have hw : 1 ≤ c.words := by omega
  have hb : a.toNat / (4 * c.words) = t * c.sets + s := by
    have e : (t * c.sets + s) * c.words * 4 = (4 * c.words) * (t * c.sets + s) := by ring
    rw [e] at h1 h2
    apply Nat.div_eq_of_lt_le
    · rw [Nat.mul_comm]; exact h1
    · rw [Nat.succ_mul, Nat.mul_comm (t * c.sets + s)]; exact h2
  exact tag_set_inj (setIndex_lt c a (by omega)) hs (by rw [block_of_tag_set, hb])

theorem lineBase_toNat {c : CacheCfg} {t s : Nat} (h : (t * c.sets + s) * c.words * 4 < 2 ^ 32) :
    (lineBase c t s).toNat = (t * c.sets + s) * c.words * 4 := by
  simp only [lineBase, BitVec.toNat_ofNat]
  exact Nat.mod_eq_of_lt h

/-! Lines. -/

/-- The geometry of the sets of a cache. -/
def Cache.shaped (c : CacheCfg) (k : Cache) : Prop := k.sets.length = c.sets ∧ ∀ ways, ways ∈ k.sets → ways.length = c.ways

theorem Cache.ways_length {c : CacheCfg} {k : Cache} (h : k.shaped c) {s : Nat} (hs : s < c.sets) : (k.ways s).length = c.ways := by
  unfold Cache.ways
  rw [List.getD_eq_getElem _ _ (by rw [h.1]; exact hs)]
  exact h.2 _ (List.getElem_mem _)

/-- Outside its bounds a set has no valid line. -/
theorem Cache.line_of_ge {c : CacheCfg} {k : Cache} (h : k.shaped c) {s w : Nat} (hb : c.sets ≤ s ∨ c.ways ≤ w) :
    k.line s w = Line.invalid := by
  unfold Cache.line
  by_cases hs : s < c.sets
  · rw [List.getD_eq_default]
    rw [Cache.ways_length h hs]
    omega
  · have : k.ways s = [] := by
      unfold Cache.ways
      exact List.getD_eq_default _ _ (by rw [h.1]; omega)
    rw [this]; rfl

theorem Cache.valid_bounds {c : CacheCfg} {k : Cache} (h : k.shaped c) {s w : Nat} (hv : (k.line s w).valid = true) :
    s < c.sets ∧ w < c.ways := by
  by_contra hc
  rw [Cache.line_of_ge h (by omega)] at hv
  cases hv

theorem Cache.shaped_setLine {c : CacheCfg} {k : Cache} (h : k.shaped c) {s : Nat} (hs : s < c.sets) (w : Nat) (l : Line) :
    (k.setLine s w l).shaped c := by
  refine ⟨by simp [Cache.setLine, h.1], ?_⟩
  intro ways hm
  rcases List.mem_or_eq_of_mem_set hm with hm | rfl
  · exact h.2 _ hm
  · simp [Cache.ways_length h hs]

/-- A line after a line is replaced. -/
theorem Cache.line_setLine {c : CacheCfg} {k : Cache} (h : k.shaped c) {s w : Nat} (hs : s < c.sets) (hw : w < c.ways) (l : Line)
    (s' w' : Nat) : (k.setLine s w l).line s' w' = if s' = s ∧ w' = w then l else k.line s' w' := by
  have hlen := Cache.ways_length h hs
  unfold Cache.line
  by_cases e : s' = s
  · subst e
    have : (k.setLine s' w l).ways s' = (k.ways s').set w l := by
      unfold Cache.ways Cache.setLine
      simp [List.getD_eq_getElem?_getD, h.1, hs, Cache.ways]
    rw [this]
    by_cases e' : w' = w
    · subst e'
      simp [List.getD_eq_getElem?_getD, hlen, hw]
    · have e'' : w ≠ w' := fun x => e' x.symm
      simp [List.getD_eq_getElem?_getD, e', List.getElem?_set_ne e'']
  · have : (k.setLine s w l).ways s' = k.ways s' := by
      have e'' : s ≠ s' := fun x => e x.symm
      unfold Cache.ways Cache.setLine
      simp [List.getD_eq_getElem?_getD, List.getElem?_set_ne e'']
    rw [this, if_neg (fun x => e x.1)]

@[simp] theorem Cache.setLine_tick (k : Cache) (s w : Nat) (l : Line) : (k.setLine s w l).tick = k.tick := rfl
@[simp] theorem Cache.setLine_stats (k : Cache) (s w : Nat) (l : Line) : (k.setLine s w l).stats = k.stats := rfl

/-- A line depends on the sets alone. -/
theorem Cache.line_congr {k k' : Cache} (h : k'.sets = k.sets) (s w : Nat) : k'.line s w = k.line s w := by
  simp [Cache.line, Cache.ways, h]

theorem Cache.shaped_congr {c : CacheCfg} {k k' : Cache} (h : k'.sets = k.sets) (hk : k.shaped c) : k'.shaped c := by
  simpa [Cache.shaped, h] using hk

/-- A hit: the lowest way of the set that is valid with the tag. -/
theorem Cache.hitWay_eq_some {k : Cache} {s t w : Nat} (h : k.hitWay s t = some w) :
    (k.line s w).valid = true ∧ (k.line s w).tag = t := by
  unfold Cache.hitWay at h
  rw [List.findIdx?_eq_some_iff_getElem] at h
  obtain ⟨hl, hp, _⟩ := h
  simp only [Line.hitBy, Bool.and_eq_true, beq_iff_eq] at hp
  rw [Cache.line, List.getD_eq_getElem _ _ hl]
  exact hp

/-- A miss: no way of the set is valid with the tag. -/
theorem Cache.hitWay_eq_none {k : Cache} {s t : Nat} (h : k.hitWay s t = none) (w : Nat) (hv : (k.line s w).valid = true) :
    (k.line s w).tag ≠ t := by
  unfold Cache.hitWay at h
  rw [List.findIdx?_eq_none_iff] at h
  intro ht
  by_cases hl : w < (k.ways s).length
  · have := h _ (List.getElem_mem hl)
    simp only [Line.hitBy, Bool.and_eq_false_iff] at this
    simp only [Cache.line, List.getD_eq_getElem _ _ hl] at hv ht
    simp [hv, ht] at this
  · rw [Cache.line, List.getD_eq_default _ _ (by omega)] at hv
    cases hv

theorem Cache.hitWay_of_line {k : Cache} {s t w : Nat} (hv : (k.line s w).valid = true) (ht : (k.line s w).tag = t) :
    ∃ w', k.hitWay s t = some w' := by
  cases h : k.hitWay s t with
  | some w' => exact ⟨w', rfl⟩
  | none => exact absurd ht (Cache.hitWay_eq_none h w hv)

/-- The index of a smallest key is an index. -/
theorem minWay_lt (key : Line → Nat) (l : List Line) (h : l ≠ []) : minWay key l < l.length := by
  induction l with
  | nil => exact absurd rfl h
  | cons a rest ih =>
    cases rest with
    | nil => simp [minWay]
    | cons b rest' =>
      have := ih (by simp)
      simp only [minWay, List.length_cons] at this ⊢
      split <;> omega

/-- The victim is a way of the set. -/
theorem Cache.victim_lt {c : CacheCfg} {k : Cache} (side : CacheSide) {s : Nat} (h : (k.ways s).length = c.ways) (hw : 1 ≤ c.ways) :
    k.victim c side s < c.ways := by
  unfold Cache.victim
  split
  · rename_i w hf
    rw [List.findIdx?_eq_some_iff_getElem] at hf
    obtain ⟨hl, _⟩ := hf
    omega
  · have hne : k.ways s ≠ [] := by intro e; rw [e] at h; simp at h; omega
    split
    · have := minWay_lt (·.lastTick) _ hne; omega
    · have := minWay_lt (·.count) _ hne; omega
    · exact Nat.mod_lt _ (by omega)

/-! What a cache over a memory shows. -/

/-- The byte at `a` that a cache over a memory shows: the line's if the block is held, else the memory's. -/
def Cache.seen (c : CacheCfg) (k : Cache) (m : Memory) (a : Word) : Byte :=
  match k.peek c a with
  | some w => byteOfWord w (a.toNat % 4)
  | none => m.byte a

/-- The invariants of the lines of a cache, without its statistics. -/
structure LinesInv (g : Config) (c : CacheCfg) (k : Cache) : Prop where
  shaped : k.shaped c
  placed : ∀ s w, (k.line s w).valid = true → (k.line s w).placed g c s
  oneTag : ∀ s i j, (k.line s i).valid = true → (k.line s j).valid = true → (k.line s i).tag = (k.line s j).tag → i = j
  oneTick : ∀ s i j, (k.line s i).valid = true → (k.line s j).valid = true → (k.line s i).lastTick = (k.line s j).lastTick → i = j
  tickBound : ∀ s w, (k.line s w).valid = true → (k.line s w).lastTick ≤ k.tick
  dirtyValid : ∀ s w, (k.line s w).dirty = true → (k.line s w).valid = true
  throughClean : c.writePolicy ≠ .writeBack → ∀ s w, (k.line s w).dirty = false

theorem CacheInv.lines {g : Config} {c : CacheCfg} {k : Cache} (h : CacheInv g c k) : LinesInv g c k :=
  ⟨⟨h.sets_length, h.ways_length⟩, h.placed, h.oneTag, h.oneTick, h.tickBound, h.dirtyValid, h.throughClean⟩

theorem LinesInv.cacheInv {g : Config} {c : CacheCfg} {k : Cache} (h : LinesInv g c k) (h1 : k.stats.hits + k.stats.misses = k.tick)
    (h2 : k.stats.memReads ≤ k.stats.misses) (h3 : k.stats.memWrites = k.stats.writeBacks + k.stats.throughStores) : CacheInv g c k :=
  ⟨h.shaped.1, h.shaped.2, h.placed, h.oneTag, h.oneTick, h.tickBound, h.dirtyValid, h.throughClean, h1, h2, h3⟩

/-- The lines' invariants do not read the statistics. -/
theorem LinesInv.congr {g : Config} {c : CacheCfg} {k k' : Cache} (h : LinesInv g c k) (hs : k'.sets = k.sets) (ht : k.tick ≤ k'.tick) :
    LinesInv g c k' := by
  have hl := Cache.line_congr hs
  constructor
  · exact Cache.shaped_congr hs h.shaped
  · simpa [hl] using h.placed
  · simpa [hl] using h.oneTag
  · simpa [hl] using h.oneTick
  · intro s w hv
    rw [hl] at hv ⊢
    exact Nat.le_trans (h.tickBound s w hv) ht
  · simpa [hl] using h.dirtyValid
  · simpa [hl] using h.throughClean

theorem Cache.seen_congr {c : CacheCfg} {k k' : Cache} (h : k'.sets = k.sets) (m : Memory) (a : Word) :
    k'.seen c m a = k.seen c m a := by
  simp only [Cache.seen, Cache.peek, Cache.hitWay, Cache.ways, Cache.line, h]

/-- A valid line with the address's tag shows the byte. -/
theorem Cache.seen_of_line {g : Config} {c : CacheCfg} {k : Cache} (h : LinesInv g c k) (m : Memory) {a : Word} {w : Nat}
    (hv : (k.line (setIndex c a) w).valid = true) (ht : (k.line (setIndex c a) w).tag = tagIndex c a) :
    k.seen c m a = byteOfWord ((k.line (setIndex c a) w).data.getD (blockOffset c a) 0#32) (a.toNat % 4) := by
  obtain ⟨w', hw'⟩ := Cache.hitWay_of_line hv ht
  obtain ⟨hv', ht'⟩ := Cache.hitWay_eq_some hw'
  have : w' = w := h.oneTag _ _ _ hv' hv (by rw [ht, ht'])
  subst this
  simp [Cache.seen, Cache.peek, hw']

/-- Without such a line memory shows the byte. -/
theorem Cache.seen_of_no_line {c : CacheCfg} {k : Cache} (m : Memory) {a : Word}
    (h : ∀ w, (k.line (setIndex c a) w).valid = true → (k.line (setIndex c a) w).tag ≠ tagIndex c a) : k.seen c m a = m.byte a := by
  cases hw : k.hitWay (setIndex c a) (tagIndex c a) with
  | none => simp [Cache.seen, Cache.peek, hw]
  | some w =>
    obtain ⟨hv, ht⟩ := Cache.hitWay_eq_some hw
    exact absurd ht (h w hv)

/-- Either a line shows the byte or memory does. -/
theorem Cache.line_or_none (c : CacheCfg) (k : Cache) (a : Word) :
    (∃ w, (k.line (setIndex c a) w).valid = true ∧ (k.line (setIndex c a) w).tag = tagIndex c a) ∨
    ∀ w, (k.line (setIndex c a) w).valid = true → (k.line (setIndex c a) w).tag ≠ tagIndex c a := by
  by_cases h : ∃ w, (k.line (setIndex c a) w).valid = true ∧ (k.line (setIndex c a) w).tag = tagIndex c a
  · exact .inl h
  · exact .inr (fun w hv ht => h ⟨w, hv, ht⟩)

/-- The bounds of a placed line's block. -/
theorem Line.placed_bounds {g : Config} {c : CacheCfg} {s : Nat} {l : Line} (hg : g.wellFormed = true) (h : l.placed g c s) :
    (l.tag * c.sets + s) * c.words * 4 + 4 * c.words ≤ 2 ^ 32 := by
  obtain ⟨_, r, hr, _, _, hh⟩ := h
  have hb : ∀ r ∈ g.map, r.boundsOk = true := by
    simp only [Config.wellFormed, Bool.and_eq_true, List.all_eq_true] at hg
    exact hg.1.1.1.2
  have := hb r hr
  simp only [Range.boundsOk, Bool.and_eq_true, decide_eq_true_eq] at this
  have h2 : r.hi ≤ 2 ^ 32 := this.1.1.2
  have h3 : (l.tag * c.sets + s) * c.words * 4 + 4 * c.words ≤ r.hi := hh
  omega

/-- Replacing a line keeps the invariants of the lines. -/
theorem LinesInv.setLine {g : Config} {c : CacheCfg} {k : Cache} (h : LinesInv g c k) {s w : Nat} (hs : s < c.sets) (hw : w < c.ways)
    {l : Line} (hp : l.valid = true → l.placed g c s)
    (ht : l.valid = true → ∀ j, j ≠ w → (k.line s j).valid = true → (k.line s j).tag ≠ l.tag)
    (hk : l.valid = true → ∀ j, j ≠ w → (k.line s j).valid = true → (k.line s j).lastTick ≠ l.lastTick)
    (hb : l.valid = true → l.lastTick ≤ k.tick) (hd : l.dirty = true → l.valid = true)
    (hc : c.writePolicy ≠ .writeBack → l.dirty = false) : LinesInv g c (k.setLine s w l) := by
  have hl := Cache.line_setLine h.shaped hs hw l
  constructor
  · exact Cache.shaped_setLine h.shaped hs w l
  · intro s' w' hv
    rw [hl] at hv ⊢
    split at hv
    · rename_i e; rw [if_pos e, e.1]; exact hp hv
    · rename_i e; rw [if_neg e]; exact h.placed _ _ hv
  · intro s' i j hi hj he
    rw [hl] at hi hj he
    rw [hl] at he
    by_cases es : s' = s
    · subst es
      by_cases ei : i = w
      · by_cases ej : j = w
        · omega
        · simp only [ei, ej, true_and, if_true, if_false] at hi hj he
          exact absurd he.symm (ht hi j ej hj)
      · by_cases ej : j = w
        · simp only [ei, ej, true_and, if_true, if_false] at hi hj he
          exact absurd he (ht hj i ei hi)
        · simp only [ei, ej, true_and, if_false] at hi hj he
          exact h.oneTag _ _ _ hi hj he
    · simp only [es, false_and, if_false] at hi hj he
      exact h.oneTag _ _ _ hi hj he
  · intro s' i j hi hj he
    rw [hl] at hi hj he
    rw [hl] at he
    by_cases es : s' = s
    · subst es
      by_cases ei : i = w
      · by_cases ej : j = w
        · omega
        · simp only [ei, ej, true_and, if_true, if_false] at hi hj he
          exact absurd he.symm (hk hi j ej hj)
      · by_cases ej : j = w
        · simp only [ei, ej, true_and, if_true, if_false] at hi hj he
          exact absurd he (hk hj i ei hi)
        · simp only [ei, ej, true_and, if_false] at hi hj he
          exact h.oneTick _ _ _ hi hj he
    · simp only [es, false_and, if_false] at hi hj he
      exact h.oneTick _ _ _ hi hj he
  · intro s' w' hv
    rw [hl] at hv ⊢
    split at hv
    · rename_i e; rw [if_pos e]; exact hb hv
    · rename_i e; rw [if_neg e]; exact h.tickBound _ _ hv
  · intro s' w' hv
    rw [hl] at hv ⊢
    split at hv
    · rename_i e; rw [if_pos e]; exact hd hv
    · rename_i e; rw [if_neg e]; exact h.dirtyValid _ _ hv
  · intro hpol s' w'
    rw [hl]
    split
    · exact hc hpol
    · exact h.throughClean hpol _ _

/-- What is seen after a valid line is replaced by a valid line of the same block. -/
theorem Cache.seen_setLine {g : Config} {c : CacheCfg} {k : Cache} {s w : Nat} {l : Line} (h : LinesInv g c k)
    (h' : LinesInv g c (k.setLine s w l)) (hs : s < c.sets) (hw : w < c.ways) (hv : (k.line s w).valid = true) (hv' : l.valid = true)
    (ht : l.tag = (k.line s w).tag) (m : Memory) (a : Word) :
    (k.setLine s w l).seen c m a =
      if setIndex c a = s ∧ tagIndex c a = l.tag then byteOfWord (l.data.getD (blockOffset c a) 0#32) (a.toNat % 4) else k.seen c m a := by
  have hl := Cache.line_setLine h.shaped hs hw l
  split
  · rename_i e
    obtain ⟨rfl, et⟩ := e
    have e1 : (k.setLine (setIndex c a) w l).line (setIndex c a) w = l := by rw [hl, if_pos ⟨rfl, rfl⟩]
    rw [Cache.seen_of_line h' m (w := w) (by rw [e1]; exact hv') (by rw [e1]; exact et.symm), e1]
  · rename_i e
    rcases Cache.line_or_none c k a with ⟨j, hj, hjt⟩ | hn
    · have e1 : (k.setLine s w l).line (setIndex c a) j = k.line (setIndex c a) j := by
        rw [hl, if_neg]
        rintro ⟨es, rfl⟩
        exact e ⟨es, by rw [ht, ← es, hjt]⟩
      rw [Cache.seen_of_line h' m (w := j) (by rw [e1]; exact hj) (by rw [e1]; exact hjt), e1, Cache.seen_of_line h m hj hjt]
    · rw [Cache.seen_of_no_line m hn, Cache.seen_of_no_line]
      intro j hj
      rw [hl] at hj ⊢
      split
      · rename_i ej
        rw [ht]
        intro hc
        exact e ⟨ej.1, by rw [ht, hc]⟩
      · rename_i ej
        rw [if_neg ej] at hj
        exact hn j hj

/-- A clean cache after a line is replaced. -/
theorem CleanAgrees.setLine {c : CacheCfg} {k : Cache} {m : Memory} (hsh : k.shaped c) (h : CleanAgrees c k m) {s w : Nat} {l : Line}
    (hs : s < c.sets) (hw : w < c.ways) (hl : l.valid = true → l.dirty = false → l.data = m.readBurst (lineBase c l.tag s) c.words) :
    CleanAgrees c (k.setLine s w l) m := by
  intro s' w' hv hd
  rw [Cache.line_setLine hsh hs hw] at hv hd ⊢
  split
  · rename_i e
    rw [if_pos e] at hv hd
    rw [e.1]
    exact hl hv hd
  · rename_i e
    rw [if_neg e] at hv hd
    exact h s' w' hv hd

theorem CleanAgrees.congr {c : CacheCfg} {k k' : Cache} {m : Memory} (h : CleanAgrees c k m) (hs : k'.sets = k.sets) :
    CleanAgrees c k' m := by
  intro s w hv hd
  rw [Cache.line_congr hs] at hv hd ⊢
  exact h s w hv hd

/-! A hit. -/

/-- Every line of a cache is older than the access. -/
def Cache.fresh (k : Cache) : Prop := ∀ s w, (k.line s w).valid = true → (k.line s w).lastTick < k.tick

theorem LinesInv.nextTick {g : Config} {c : CacheCfg} {k : Cache} (h : LinesInv g c k) :
    LinesInv g c k.nextTick ∧ k.nextTick.fresh := by
  refine ⟨h.congr rfl (Nat.le_succ _), ?_⟩
  intro s w hv
  have e : k.nextTick.line s w = k.line s w := Cache.line_congr rfl s w
  rw [e] at hv ⊢
  exact Nat.lt_succ_of_le (h.tickBound s w hv)

theorem Cache.hit_lines {g : Config} {c : CacheCfg} {k : Cache} (h : LinesInv g c k) (hf : k.fresh) {s w : Nat}
    (hv : (k.line s w).valid = true) : LinesInv g c (k.hit s w) := by
  obtain ⟨hs, hw⟩ := Cache.valid_bounds h.shaped hv
  refine LinesInv.congr (k := k.setLine s w ((k.line s w).touch k.tick)) ?_ rfl (Nat.le_refl _)
  refine h.setLine hs hw ?_ ?_ ?_ ?_ ?_ ?_
  · intro _; exact h.placed s w hv
  · intro _ j hj hvj he; exact hj (h.oneTag s j w hvj hv he)
  · intro _ j hj hvj he
    have := hf s j hvj
    simp only [Line.touch] at he
    omega
  · intro _; exact Nat.le_refl _
  · intro _; exact hv
  · intro hp; exact h.throughClean hp s w

theorem Cache.hit_line {c : CacheCfg} {k : Cache} (h : k.shaped c) {s w : Nat} (hs : s < c.sets) (hw : w < c.ways) :
    (k.hit s w).line s w = (k.line s w).touch k.tick := by
  have := Cache.line_setLine h hs hw ((k.line s w).touch k.tick) s w
  rw [if_pos ⟨rfl, rfl⟩] at this
  rw [← this]
  exact Cache.line_congr rfl _ _

theorem Cache.hit_seen {g : Config} {c : CacheCfg} {k : Cache} (h : LinesInv g c k) (hf : k.fresh) {s w : Nat}
    (hv : (k.line s w).valid = true) (m : Memory) (a : Word) : (k.hit s w).seen c m a = k.seen c m a := by
  obtain ⟨hs, hw⟩ := Cache.valid_bounds h.shaped hv
  have h' : LinesInv g c (k.setLine s w ((k.line s w).touch k.tick)) := (Cache.hit_lines h hf hv).congr rfl (Nat.le_refl _)
  have e : (k.hit s w).seen c m a = (k.setLine s w ((k.line s w).touch k.tick)).seen c m a := Cache.seen_congr rfl m a
  rw [e, Cache.seen_setLine h h' hs hw hv hv rfl]
  split
  · rename_i e
    obtain ⟨rfl, et⟩ := e
    rw [Cache.seen_of_line h m hv et.symm]
    rfl
  · rfl

theorem Cache.hit_clean {g : Config} {c : CacheCfg} {k : Cache} {m : Memory} (h : LinesInv g c k) (hc : CleanAgrees c k m) {s w : Nat}
    (hv : (k.line s w).valid = true) : CleanAgrees c (k.hit s w) m := by
  obtain ⟨hs, hw⟩ := Cache.valid_bounds h.shaped hv
  have e : CleanAgrees c (k.setLine s w ((k.line s w).touch k.tick)) m := hc.setLine h.shaped hs hw (fun _ hd => hc s w hv hd)
  exact e.congr rfl

/-! An allocation. -/

/-- The block of an address lies in a cached range of the map. -/
def blockPlaced (g : Config) (c : CacheCfg) (t s : Nat) : Prop :=
  ∃ r, r ∈ g.map ∧ r.uncached = false ∧ r.lo ≤ (t * c.sets + s) * c.words * 4 ∧ (t * c.sets + s) * c.words * 4 + 4 * c.words ≤ r.hi

theorem filledLine_placed {g : Config} {c : CacheCfg} {t s : Nat} (hp : blockPlaced g c t s) (m : Memory) (tick : Nat) :
    (filledLine c m tick t s).placed g c s := by
  refine ⟨by simp [filledLine], ?_⟩
  exact hp

theorem Cache.allocate_lines {g : Config} {c : CacheCfg} {k : Cache} (h : LinesInv g c k) (hf : k.fresh) {s t w : Nat} (hs : s < c.sets)
    (hw : w < c.ways) (hp : blockPlaced g c t s) (hm : ∀ j, (k.line s j).valid = true → (k.line s j).tag ≠ t) (m : Memory) :
    LinesInv g c (k.allocate c m s t w).1 := by
  refine LinesInv.congr (k := k.setLine s w (filledLine c (if (k.line s w).owed then writeBackLine c m s (k.line s w) else m) k.tick t s))
    ?_ rfl (Nat.le_refl _)
  refine h.setLine hs hw ?_ ?_ ?_ ?_ ?_ ?_
  · intro _; exact filledLine_placed hp _ _
  · intro _ j _ hv; exact hm j hv
  · intro _ j _ hv he
    have := hf s j hv
    simp only [filledLine] at he
    omega
  · intro _; exact Nat.le_refl _
  · intro hd; cases hd
  · intro _; rfl

theorem Cache.allocate_line {c : CacheCfg} {k : Cache} (h : k.shaped c) {s t w : Nat} (hs : s < c.sets) (hw : w < c.ways) (m : Memory)
    (s' w' : Nat) :
    (k.allocate c m s t w).1.line s' w' = if s' = s ∧ w' = w then filledLine c (k.allocate c m s t w).2 k.tick t s else k.line s' w' := by
  rw [← Cache.line_setLine h hs hw]
  exact Cache.line_congr rfl _ _

/-- Memory after an allocation: the victim's block, if it was owed, holds the victim's data; every other byte is as before. -/
theorem Cache.allocate_memory {g : Config} {c : CacheCfg} {k : Cache} (hg : g.wellFormed = true) (hpos : 1 ≤ c.words) (h : LinesInv g c k)
    {m : Memory} (hm : m.wf = true) (s t w : Nat) :
    (k.allocate c m s t w).2.wf = true ∧
    ∀ b : Word, (k.allocate c m s t w).2.byte b =
      if (k.line s w).valid = true ∧ (k.line s w).dirty = true ∧ setIndex c b = s ∧ tagIndex c b = (k.line s w).tag then
        byteOfWord ((k.line s w).data.getD (blockOffset c b) 0#32) (b.toNat % 4)
      else m.byte b := by
  by_cases ho : (k.line s w).owed = true
  · have e : (k.allocate c m s t w).2 = writeBackLine c m s (k.line s w) := by simp [Cache.allocate, ho]
    rw [e]
    simp only [Line.owed, Bool.and_eq_true] at ho
    obtain ⟨hv, hd⟩ := ho
    obtain ⟨hs, hw⟩ := Cache.valid_bounds h.shaped hv
    have hb := Line.placed_bounds hg (h.placed s w hv)
    have hlen := (h.placed s w hv).1
    refine ⟨Memory.wf_writeBurst hm _ _, fun b => ?_⟩
    have hbase : (lineBase c (k.line s w).tag s).toNat = ((k.line s w).tag * c.sets + s) * c.words * 4 := lineBase_toNat (by omega)
    rw [writeBackLine, Memory.byte_writeBurst hm (by rw [hbase]; omega) (by rw [hbase, hlen]; omega), hbase, hlen]
    by_cases hin : setIndex c b = s ∧ tagIndex c b = (k.line s w).tag
    · obtain ⟨h1, h2⟩ := hin
      have hle := base_le c b (by omega)
      rw [h1, h2] at hle
      rw [if_pos hle, if_pos ⟨hv, hd, h1, h2⟩]
      have hparts := address_parts c b
      rw [← block_of_tag_set, h1, h2] at hparts
      congr 2
      omega
    · rw [if_neg (fun hle => hin (And.symm (tag_set_of_mem hs hle.1 hle.2))), if_neg (fun hc => hin ⟨hc.2.2.1, hc.2.2.2⟩)]
  · have e : (k.allocate c m s t w).2 = m := by simp [Cache.allocate, ho]
    rw [e]
    refine ⟨hm, fun b => ?_⟩
    rw [if_neg]
    intro hc
    exact ho (by simp [Line.owed, hc.1, hc.2.1])

/-- A word of the burst of a block, by its byte. -/
theorem byte_of_readBurst {c : CacheCfg} {m : Memory} {t s : Nat} {b : Word} (hpos : 1 ≤ c.words)
    (hb : (t * c.sets + s) * c.words * 4 + 4 * c.words ≤ 2 ^ 32) (hs : setIndex c b = s) (ht : tagIndex c b = t) :
    byteOfWord ((m.readBurst (lineBase c t s) c.words).getD (blockOffset c b) 0#32) (b.toNat % 4) = m.byte b := by
  have ho := blockOffset_lt c b hpos
  have hparts := address_parts c b
  rw [← block_of_tag_set, hs, ht] at hparts
  have hbase : (lineBase c t s).toNat = (t * c.sets + s) * c.words * 4 := lineBase_toNat (by omega)
  rw [Memory.getD_readBurst m _ ho, Memory.byteOfWord_word m _ _ (by omega)]
  congr 1
  apply BitVec.eq_of_toNat_eq
  rw [BitVec.toNat_add, BitVec.toNat_add, hbase, BitVec.toNat_ofNat, BitVec.toNat_ofNat]
  omega

/-- What is seen after an allocation is what was seen before it. -/
theorem Cache.allocate_seen {g : Config} {c : CacheCfg} {k : Cache} (hg : g.wellFormed = true) (hpos : 1 ≤ c.words) (h : LinesInv g c k)
    (hf : k.fresh) {m : Memory} (hm : m.wf = true) (hc : CleanAgrees c k m) {s t w : Nat} (hs : s < c.sets) (hw : w < c.ways)
    (hp : blockPlaced g c t s) (hmiss : ∀ j, (k.line s j).valid = true → (k.line s j).tag ≠ t) (a : Word) :
    (k.allocate c m s t w).1.seen c (k.allocate c m s t w).2 a = k.seen c m a := by
  have hL := Cache.allocate_lines h hf hs hw hp hmiss m
  have hline := Cache.allocate_line (t := t) h.shaped hs hw m
  have hmem := (Cache.allocate_memory hg hpos h hm s t w).2
  have hfill := Line.placed_bounds hg (filledLine_placed hp (k.allocate c m s t w).2 k.tick)
  by_cases e1 : setIndex c a = s ∧ tagIndex c a = t
  · obtain ⟨rfl, rfl⟩ := e1
    have el : (k.allocate c m (setIndex c a) (tagIndex c a) w).1.line (setIndex c a) w =
        filledLine c (k.allocate c m (setIndex c a) (tagIndex c a) w).2 k.tick (tagIndex c a) (setIndex c a) := by
      rw [hline, if_pos ⟨rfl, rfl⟩]
    rw [Cache.seen_of_no_line m hmiss, Cache.seen_of_line hL _ (w := w) (by rw [el]; rfl) (by rw [el]; rfl), el]
    have := byte_of_readBurst (m := (k.allocate c m (setIndex c a) (tagIndex c a) w).2) hpos hfill (b := a) rfl rfl
    simp only [filledLine] at this ⊢
    rw [this, hmem, if_neg]
    intro hx
    exact hmiss w hx.1 hx.2.2.2.symm
  · rcases Cache.line_or_none c k a with ⟨j, hj, hjt⟩ | hn
    · rw [Cache.seen_of_line h m hj hjt]
      by_cases e2 : setIndex c a = s ∧ j = w
      · obtain ⟨rfl, rfl⟩ := e2
        rw [Cache.seen_of_no_line, hmem]
        · cases hd : (k.line (setIndex c a) j).dirty with
          | true => rw [if_pos ⟨hj, rfl, rfl, hjt.symm⟩]
          | false =>
            rw [if_neg (by simp)]
            have hb := Line.placed_bounds hg (h.placed _ _ hj)
            rw [hc _ _ hj hd]
            exact (byte_of_readBurst hpos hb rfl hjt.symm).symm
        · intro i hi
          rw [hline] at hi ⊢
          split
          · exact fun hx => e1 ⟨rfl, hx.symm⟩
          · rename_i ei
            rw [if_neg ei] at hi
            intro hx
            exact ei ⟨rfl, h.oneTag _ _ _ hi hj (by rw [hx, hjt])⟩
      · have el : (k.allocate c m s t w).1.line (setIndex c a) j = k.line (setIndex c a) j := by rw [hline, if_neg e2]
        rw [Cache.seen_of_line hL _ (w := j) (by rw [el]; exact hj) (by rw [el]; exact hjt), el]
    · rw [Cache.seen_of_no_line m hn, Cache.seen_of_no_line, hmem, if_neg]
      · rintro ⟨hv, _, rfl, hx⟩
        exact hn w hv hx.symm
      · intro i hi
        rw [hline] at hi ⊢
        split
        · rename_i ei
          exact fun hx => e1 ⟨ei.1, hx.symm⟩
        · rename_i ei
          rw [if_neg ei] at hi
          exact hn i hi

theorem Cache.allocate_clean {g : Config} {c : CacheCfg} {k : Cache} (hg : g.wellFormed = true) (hpos : 1 ≤ c.words) (h : LinesInv g c k)
    {m : Memory} (hm : m.wf = true) (hc : CleanAgrees c k m) {s t w : Nat} (hs : s < c.sets) (hw : w < c.ways) :
    CleanAgrees c (k.allocate c m s t w).1 (k.allocate c m s t w).2 := by
  have hmem := (Cache.allocate_memory hg hpos h hm s t w).2
  intro s' w' hv hd
  rw [Cache.allocate_line h.shaped hs hw] at hv hd ⊢
  split
  · rename_i e
    rw [e.1]
    rfl
  · rename_i e
    rw [if_neg e] at hv hd
    rw [hc s' w' hv hd]
    have hb := Line.placed_bounds hg (h.placed s' w' hv)
    obtain ⟨hs', _⟩ := Cache.valid_bounds h.shaped hv
    have hbase : (lineBase c (k.line s' w').tag s').toNat = ((k.line s' w').tag * c.sets + s') * c.words * 4 := lineBase_toNat (by omega)
    symm
    apply Memory.readBurst_congr (by omega)
    intro b hb1 hb2
    rw [hbase] at hb1 hb2
    obtain ⟨ht2, hs2⟩ := tag_set_of_mem hs' hb1 hb2
    rw [hmem, if_neg]
    rintro ⟨hv2, _, hs3, ht3⟩
    rw [hs2] at hs3
    subst hs3
    exact e ⟨rfl, h.oneTag _ _ _ hv hv2 (by rw [← ht2, ht3])⟩

/-! A read. -/

/-- The two ways a read goes: a hit, or a miss and an allocation. -/
theorem Cache.readWord_cases (c : CacheCfg) (side : CacheSide) (k : Cache) (m : Memory) (a : Word) :
    (∃ w, k.nextTick.hitWay (setIndex c a) (tagIndex c a) = some w ∧
      k.readWord c side m a = ((k.nextTick.line (setIndex c a) w).data.getD (blockOffset c a) 0#32, (k.nextTick.hit (setIndex c a) w, m))) ∨
    (k.nextTick.hitWay (setIndex c a) (tagIndex c a) = none ∧
      ∃ w r, w = (k.nextTick.miss side).victim c side (setIndex c a) ∧
        r = (k.nextTick.miss side).allocate c m (setIndex c a) (tagIndex c a) w ∧
        k.readWord c side m a = ((r.1.line (setIndex c a) w).data.getD (blockOffset c a) 0#32, r)) := by
  unfold Cache.readWord
  cases h : k.nextTick.hitWay (setIndex c a) (tagIndex c a) with
  | some w => exact .inl ⟨w, rfl, by simp only [h]⟩
  | none => exact .inr ⟨rfl, _, _, rfl, rfl, by simp only [h]⟩

theorem Cache.miss_lines {g : Config} {c : CacheCfg} {k : Cache} (side : CacheSide) (h : LinesInv g c k) (hf : k.fresh) :
    LinesInv g c (k.miss side) ∧ (k.miss side).fresh := by
  refine ⟨h.congr rfl (Nat.le_refl _), ?_⟩
  intro s w hv
  have e : (k.miss side).line s w = k.line s w := Cache.line_congr rfl s w
  rw [e] at hv ⊢
  exact hf s w hv

theorem StatsGrown.refl (t : CacheStats) : StatsGrown t t := ⟨Nat.le_refl _, Nat.le_refl _, Nat.le_refl _, Nat.le_refl _, Nat.le_refl _⟩

/-- The statistics of an allocation. -/
theorem Cache.allocate_stats (c : CacheCfg) (k : Cache) (m : Memory) (s t w : Nat) :
    (k.allocate c m s t w).1.stats.hits = k.stats.hits ∧ (k.allocate c m s t w).1.stats.misses = k.stats.misses ∧
    (k.allocate c m s t w).1.stats.memReads = k.stats.memReads + 1 ∧
    (k.allocate c m s t w).1.stats.throughStores = k.stats.throughStores ∧
    (k.allocate c m s t w).1.stats.stallCycles = k.stats.stallCycles ∧
    (((k.line s w).owed = true ∧ (k.allocate c m s t w).1.stats.memWrites = k.stats.memWrites + 1 ∧
        (k.allocate c m s t w).1.stats.writeBacks = k.stats.writeBacks + 1) ∨
     ((k.line s w).owed = false ∧ (k.allocate c m s t w).1.stats.memWrites = k.stats.memWrites ∧
        (k.allocate c m s t w).1.stats.writeBacks = k.stats.writeBacks)) ∧
    (k.allocate c m s t w).1.tick = k.tick := by
  cases ho : (k.line s w).owed <;> simp [Cache.allocate, ho, CacheStats.countFill, CacheStats.countWriteBack]

/-- A read keeps the invariant of the cache, whatever memory holds. -/
theorem Cache.readWord_inv {g : Config} {c : CacheCfg} {k : Cache} (hgeo : 1 ≤ c.sets ∧ 1 ≤ c.words ∧ 1 ≤ c.ways) (h : CacheInv g c k)
    (side : CacheSide) (m : Memory) {a : Word} (hp : blockPlaced g c (tagIndex c a) (setIndex c a)) :
    CacheInv g c (k.readWord c side m a).2.1 ∧ StatsGrown k.stats (k.readWord c side m a).2.1.stats := by
  obtain ⟨hL, hf⟩ := h.lines.nextTick
  have ha := h.accesses
  have hfl := h.fills
  have hwr := h.writes
  rcases Cache.readWord_cases c side k m a with ⟨w, hw, e⟩ | ⟨hw, w, r, ew, er, e⟩
  · rw [e]
    obtain ⟨hv, _⟩ := Cache.hitWay_eq_some hw
    have hk := Cache.hit_lines hL hf hv
    constructor
    · apply hk.cacheInv <;> simp only [Cache.hit, Cache.nextTick, CacheStats.countHit, Cache.setLine_tick, Cache.setLine_stats] <;> omega
    · simp [StatsGrown, Cache.hit, Cache.nextTick, CacheStats.countHit]
  · rw [e]
    obtain ⟨hL', hf'⟩ := Cache.miss_lines side hL hf
    have hs := setIndex_lt c a hgeo.1
    have hwlt : w < c.ways := by rw [ew]; exact Cache.victim_lt side (Cache.ways_length hL'.shaped hs) hgeo.2.2
    have hmiss := fun j => Cache.hitWay_eq_none (k := k.nextTick.miss side) (s := setIndex c a) (t := tagIndex c a) hw j
    have hk := Cache.allocate_lines hL' hf' hs hwlt hp hmiss m
    obtain ⟨s1, s2, s3, s4, s5, s6, s7⟩ := Cache.allocate_stats c (k.nextTick.miss side) m (setIndex c a) (tagIndex c a) w
    rw [← er] at hk s1 s2 s3 s4 s5 s6 s7
    simp only [Cache.miss, Cache.nextTick, CacheStats.countMiss] at s1 s2 s3 s4 s5 s6 s7
    refine ⟨hk.cacheInv (by omega) (by omega) ?_, show StatsGrown k.stats r.1.stats from ?_⟩
    · rcases s6 with ⟨_, s6, s6'⟩ | ⟨_, s6, s6'⟩ <;> omega
    · unfold StatsGrown
      rcases s6 with ⟨_, s6, _⟩ | ⟨_, s6, _⟩ <;> omega

/-- A read of a cache without dirty lines leaves memory as it was and makes no line dirty. -/
theorem Cache.readWord_noDirty {c : CacheCfg} {k : Cache} (hgeo : 1 ≤ c.sets ∧ 1 ≤ c.words ∧ 1 ≤ c.ways) (h : k.shaped c)
    (hd : ∀ s w, (k.line s w).dirty = false) (side : CacheSide) (m : Memory) (a : Word) :
    (k.readWord c side m a).2.2 = m ∧ ∀ s w, ((k.readWord c side m a).2.1.line s w).dirty = false := by
  have hs := setIndex_lt c a hgeo.1
  have hd' : ∀ s w, (k.nextTick.line s w).dirty = false := hd
  have hsh : k.nextTick.shaped c := h
  rcases Cache.readWord_cases c side k m a with ⟨w, hw, e⟩ | ⟨hw, w, r, ew, er, e⟩
  · rw [e]
    refine ⟨rfl, fun s' w' => ?_⟩
    obtain ⟨hv, _⟩ := Cache.hitWay_eq_some hw
    have hb := Cache.valid_bounds hsh hv
    have hl := Cache.line_setLine hsh hb.1 hb.2 ((k.nextTick.line (setIndex c a) w).touch k.nextTick.tick) s' w'
    have e' : (k.nextTick.hit (setIndex c a) w).line s' w' =
      (k.nextTick.setLine (setIndex c a) w ((k.nextTick.line (setIndex c a) w).touch k.nextTick.tick)).line s' w' := Cache.line_congr rfl _ _
    rw [e', hl]
    split
    · exact hd' _ _
    · exact hd' _ _
  · rw [e, er]
    have hsh' : (k.nextTick.miss side).shaped c := h
    have hd'' : ∀ s w, ((k.nextTick.miss side).line s w).dirty = false := hd
    have hwlt : w < c.ways := by rw [ew]; exact Cache.victim_lt side (Cache.ways_length hsh' hs) hgeo.2.2
    constructor
    · simp [Cache.allocate, Line.owed, hd'']
    · intro s' w'
      rw [Cache.allocate_line hsh' hs hwlt]
      split
      · rfl
      · exact hd'' _ _

/-- A read yields the word seen, and what is seen is as before. -/
theorem Cache.readWord_seen {g : Config} {c : CacheCfg} {k : Cache} (hg : g.wellFormed = true)
    (hgeo : 1 ≤ c.sets ∧ 1 ≤ c.words ∧ 1 ≤ c.ways) (h : CacheInv g c k) (side : CacheSide) {m : Memory} (hm : m.wf = true)
    (hc : CleanAgrees c k m) {a : Word} (hp : blockPlaced g c (tagIndex c a) (setIndex c a)) :
    (∀ b : Word, b.toNat / 4 = a.toNat / 4 → byteOfWord (k.readWord c side m a).1 (b.toNat % 4) = k.seen c m b) ∧
    (∀ b, (k.readWord c side m a).2.1.seen c (k.readWord c side m a).2.2 b = k.seen c m b) ∧
    (k.readWord c side m a).2.2.wf = true ∧ CleanAgrees c (k.readWord c side m a).2.1 (k.readWord c side m a).2.2 := by
  obtain ⟨hL, hf⟩ := h.lines.nextTick
  have hsame : ∀ b : Word, b.toNat / 4 = a.toNat / 4 →
      setIndex c b = setIndex c a ∧ tagIndex c b = tagIndex c a ∧ blockOffset c b = blockOffset c a := by
    intro b hb
    have e (n : Nat) : b.toNat / (4 * n) = a.toNat / (4 * n) := by rw [← Nat.div_div_eq_div_mul, hb, Nat.div_div_eq_div_mul]
    refine ⟨by simp only [setIndex, e], ?_, by simp only [blockOffset, hb]⟩
    simp only [tagIndex, Nat.mul_assoc, e]
  have hseen : ∀ b, k.nextTick.seen c m b = k.seen c m b := fun b => Cache.seen_congr rfl m b
  have hc' : CleanAgrees c k.nextTick m := hc.congr rfl
  rcases Cache.readWord_cases c side k m a with ⟨w, hw, e⟩ | ⟨hw, w, r, ew, er, e⟩
  · rw [e]
    obtain ⟨hv, ht⟩ := Cache.hitWay_eq_some hw
    refine ⟨?_, ?_, hm, Cache.hit_clean hL hc' hv⟩
    · intro b hb
      obtain ⟨h1, h2, h3⟩ := hsame b hb
      rw [← hseen b, Cache.seen_of_line hL m (w := w) (by rw [h1]; exact hv) (by rw [h1, h2]; exact ht), h1, h3]
    · intro b
      rw [← hseen b]
      exact Cache.hit_seen hL hf hv m b
  · rw [e]
    obtain ⟨hL', hf'⟩ := Cache.miss_lines side hL hf
    have hs := setIndex_lt c a hgeo.1
    have hwlt : w < c.ways := by rw [ew]; exact Cache.victim_lt side (Cache.ways_length hL'.shaped hs) hgeo.2.2
    have hmiss := fun j => Cache.hitWay_eq_none (k := k.nextTick.miss side) (s := setIndex c a) (t := tagIndex c a) hw j
    have hk := Cache.allocate_lines hL' hf' hs hwlt hp hmiss m
    have hc'' : CleanAgrees c (k.nextTick.miss side) m := hc.congr rfl
    have hv := Cache.allocate_seen hg hgeo.2.1 hL' hf' hm hc'' hs hwlt hp hmiss
    have hcl := Cache.allocate_clean (t := tagIndex c a) hg hgeo.2.1 hL' hm hc'' hs hwlt
    have hmw := (Cache.allocate_memory hg hgeo.2.1 hL' hm (setIndex c a) (tagIndex c a) w).1
    have hline := Cache.allocate_line (t := tagIndex c a) hL'.shaped hs hwlt m (setIndex c a) w
    rw [if_pos ⟨rfl, rfl⟩] at hline
    rw [← er] at hk hcl hmw hline
    have hseen' : ∀ b, r.1.seen c r.2 b = k.seen c m b := by
      intro b
      rw [er, hv b]
      exact Cache.seen_congr rfl m b
    refine ⟨?_, hseen', hmw, hcl⟩
    intro b hb
    obtain ⟨h1, h2, h3⟩ := hsame b hb
    rw [← hseen' b, Cache.seen_of_line hk r.2 (w := w) (by rw [h1, hline]; rfl) (by rw [h1, h2, hline]; rfl), h1, h3]

/-! A write. -/

/-- The bytes of a word put together from two halves. -/
theorem byteOfWord_halves (x y : BitVec 16) (j : Nat) (hj : j < 4) :
    byteOfWord (x ++ y) j = if j < 2 then x.extractLsb' (8 * (1 - j)) 8 else y.extractLsb' (8 * (3 - j)) 8 := by
  interval_cases j <;>
  · apply BitVec.eq_of_getLsbD_eq
    intro i hi
    simp only [byteOfWord, BitVec.getLsbD_append, BitVec.getLsbD_extractLsb']
    interval_cases i <;> simp

theorem byteOfWord_extract (v : Word) :
    (v.extractLsb' 0 16).extractLsb' 8 8 = byteOfWord v 2 ∧ (v.extractLsb' 0 16).extractLsb' 0 8 = byteOfWord v 3 ∧
    (v.extractLsb' 16 16).extractLsb' 8 8 = byteOfWord v 0 ∧ (v.extractLsb' 16 16).extractLsb' 0 8 = byteOfWord v 1 := by
  refine ⟨?_, ?_, ?_, ?_⟩ <;>
  · apply BitVec.eq_of_getLsbD_eq
    intro i hi
    simp only [byteOfWord, BitVec.getLsbD_extractLsb']
    interval_cases i <;> simp

/-- The bytes of a word after a store is merged into it. -/
theorem byteOfWord_mergeBytes (d a v : Word) (n : Width) (ha : alignedTo a n = true) (j : Nat) (hj : j < 4) :
    byteOfWord (mergeBytes d a v n) j =
      if a.toNat % 4 ≤ j ∧ j < a.toNat % 4 + widthBytes n then byteOfWord v (4 - widthBytes n + (j - a.toNat % 4))
      else byteOfWord d j := by
  simp only [alignedTo, decide_eq_true_eq] at ha
  generalize hr : a.toNat % 4 = r
  have hr4 : r < 4 := by omega
  cases n with
  | byte =>
    simp only [mergeBytes, hr, widthBytes]
    obtain ⟨h0, h1, h2, h3⟩ := byteOfWord_wordOfBytes (if r = 0 then byteOfWord v 3 else byteOfWord d 0)
      (if r = 1 then byteOfWord v 3 else byteOfWord d 1) (if r = 2 then byteOfWord v 3 else byteOfWord d 2)
      (if r = 3 then byteOfWord v 3 else byteOfWord d 3)
    interval_cases j <;> first | rw [h0] | rw [h1] | rw [h2] | rw [h3]
    all_goals interval_cases r <;> simp
  | half =>
    simp only [widthBytes] at ha
    have hr2 : r = 0 ∨ r = 2 := by omega
    simp only [mergeBytes, hr]
    obtain ⟨h2, h3, h0, h1⟩ := byteOfWord_extract v
    obtain ⟨e2, e3, e0, e1⟩ := byteOfWord_extract d
    rcases hr2 with rfl | rfl
    · rw [if_pos rfl, byteOfWord_halves _ _ _ hj]
      interval_cases j <;> simp [widthBytes, h2, h3, e2, e3]
    · rw [if_neg (by omega), byteOfWord_halves _ _ _ hj]
      interval_cases j <;> simp [widthBytes, h2, h3, e0, e1]
  | word =>
    simp only [widthBytes] at ha
    have : r = 0 := by omega
    subst this
    simp [mergeBytes, widthBytes, hj]

/-- Two addresses of one word have one block and one offset. -/
theorem same_word {c : CacheCfg} {a b : Word} (h : b.toNat / 4 = a.toNat / 4) :
    setIndex c b = setIndex c a ∧ tagIndex c b = tagIndex c a ∧ blockOffset c b = blockOffset c a := by
  have e (n : Nat) : b.toNat / (4 * n) = a.toNat / (4 * n) := by rw [← Nat.div_div_eq_div_mul, h, Nat.div_div_eq_div_mul]
  refine ⟨by simp only [setIndex, e], ?_, by simp only [blockOffset, h]⟩
  simp only [tagIndex, Nat.mul_assoc, e]

/-- The bytes of an aligned access lie in the word of its address. -/
theorem touched_word {a b : Word} {n : Width} (ha : alignedTo a n = true) (h : touches a n b) : b.toNat / 4 = a.toNat / 4 := by
  simp only [alignedTo, decide_eq_true_eq] at ha
  obtain ⟨h1, h2⟩ := h
  cases n <;> simp only [widthBytes] at ha h2 <;> omega

/-- The byte of a store at an address that it touches. -/
def touchByte (a v : Word) (n : Width) (b : Word) : Byte := byteOfWord v (4 - widthBytes n + (b.toNat - a.toNat))

/-- The bytes of a line after a store is merged into it, within the block of the store. -/
theorem Line.merge_byte {c : CacheCfg} {a : Word} {n : Width} (ha : alignedTo a n = true) (hpos : 1 ≤ c.words) (v : Word) {l : Line}
    (hl : l.data.length = c.words) {b : Word} (hs : setIndex c b = setIndex c a) (ht : tagIndex c b = tagIndex c a) :
    byteOfWord ((l.merge c a v n).data.getD (blockOffset c b) 0#32) (b.toNat % 4) =
      if touches a n b then touchByte a v n b else byteOfWord (l.data.getD (blockOffset c b) 0#32) (b.toNat % 4) := by
  have ho := blockOffset_lt c a hpos
  have pa := address_parts c a
  have pb := address_parts c b
  have hblk : b.toNat / (4 * c.words) = a.toNat / (4 * c.words) := by rw [← block_of_tag_set, ← block_of_tag_set, hs, ht]
  rw [hblk] at pb
  simp only [Line.merge]
  by_cases e : blockOffset c b = blockOffset c a
  · have e1 : (l.data.set (blockOffset c a) (mergeBytes (l.data.getD (blockOffset c a) 0#32) a v n)).getD (blockOffset c a) 0#32 =
        mergeBytes (l.data.getD (blockOffset c a) 0#32) a v n := by
      simp [List.getD_eq_getElem?_getD, hl, ho]
    rw [e, e1, byteOfWord_mergeBytes _ _ _ _ ha _ (by omega)]
    rw [e] at pb
    unfold touches touchByte
    by_cases hc : a.toNat ≤ b.toNat ∧ b.toNat < a.toNat + widthBytes n
    · rw [if_pos hc, if_pos (by omega)]
      congr 2; omega
    · rw [if_neg hc, if_neg (by omega)]
  · have e1 : (l.data.set (blockOffset c a) (mergeBytes (l.data.getD (blockOffset c a) 0#32) a v n)).getD (blockOffset c b) 0#32 =
        l.data.getD (blockOffset c b) 0#32 := by
      have e' : blockOffset c a ≠ blockOffset c b := fun x => e x.symm
      simp [List.getD_eq_getElem?_getD, List.getElem?_set_ne e']
    rw [e1, if_neg]
    intro hc
    exact e (same_word (touched_word ha hc)).2.2

/-- What is seen after a store is merged into the line that holds its block. -/
theorem Cache.seen_merge {g : Config} {c : CacheCfg} {k : Cache} {w : Nat} {a : Word} {n : Width} {d : Bool} (ha : alignedTo a n = true)
    (hpos : 1 ≤ c.words) (v : Word) (h : LinesInv g c k) (hv : (k.line (setIndex c a) w).valid = true)
    (ht : (k.line (setIndex c a) w).tag = tagIndex c a)
    (h' : LinesInv g c (k.setLine (setIndex c a) w { (k.line (setIndex c a) w).merge c a v n with dirty := d })) (m : Memory) (b : Word) :
    (k.setLine (setIndex c a) w { (k.line (setIndex c a) w).merge c a v n with dirty := d }).seen c m b =
      if touches a n b then touchByte a v n b else k.seen c m b := by
  obtain ⟨hs, hw⟩ := Cache.valid_bounds h.shaped hv
  rw [Cache.seen_setLine h h' hs hw hv hv rfl]
  have hlen := (h.placed _ _ hv).1
  by_cases hb : setIndex c b = setIndex c a ∧ tagIndex c b = tagIndex c a
  · rw [if_pos ⟨hb.1, by rw [hb.2]; exact ht.symm⟩]
    have := Line.merge_byte ha hpos v hlen hb.1 hb.2
    simp only at this ⊢
    rw [this, Cache.seen_of_line h m (w := w) (by rw [hb.1]; exact hv) (by rw [hb.1, hb.2]; exact ht), hb.1]
  · rw [if_neg, if_neg]
    · intro hc
      obtain ⟨h1, h2, _⟩ := same_word (c := c) (touched_word ha hc)
      exact hb ⟨h1, h2⟩
    · rintro ⟨h1, h2⟩
      exact hb ⟨h1, by rw [h2]; exact ht⟩

/-- Merging a store into a line keeps the invariants of the lines. -/
theorem LinesInv.merge {g : Config} {c : CacheCfg} {k : Cache} {s w : Nat} (a v : Word) (n : Width) (h : LinesInv g c k)
    (hv : (k.line s w).valid = true) (d : Bool) (hd : c.writePolicy ≠ .writeBack → d = false) :
    LinesInv g c (k.setLine s w { (k.line s w).merge c a v n with dirty := d }) := by
  obtain ⟨hs, hw⟩ := Cache.valid_bounds h.shaped hv
  refine h.setLine hs hw ?_ ?_ ?_ ?_ ?_ ?_
  · intro _
    obtain ⟨h1, h2⟩ := h.placed s w hv
    exact ⟨by simpa [Line.merge] using h1, h2⟩
  · intro _ j hj hvj he; exact hj (h.oneTag s j w hvj hv he)
  · intro _ j hj hvj he; exact hj (h.oneTick s j w hvj hv he)
  · intro _; exact h.tickBound s w hv
  · intro _; exact hv
  · exact hd

/-- Words with the same bytes are equal. -/
theorem word_ext {x y : Word} (h : ∀ j, j < 4 → byteOfWord x j = byteOfWord y j) : x = y := by
  rw [← wordOfBytes_byteOfWord x, ← wordOfBytes_byteOfWord y, h 0 (by omega), h 1 (by omega), h 2 (by omega), h 3 (by omega)]

/-- Data of the block's length whose bytes are those of memory is the burst of the block. -/
theorem data_eq_readBurst {c : CacheCfg} {m : Memory} {t s : Nat} {data : List Word} (hpos : 1 ≤ c.words) (hs : s < c.sets)
    (hb : (t * c.sets + s) * c.words * 4 + 4 * c.words ≤ 2 ^ 32) (hl : data.length = c.words)
    (h : ∀ b : Word, setIndex c b = s → tagIndex c b = t → byteOfWord (data.getD (blockOffset c b) 0#32) (b.toNat % 4) = m.byte b) :
    data = m.readBurst (lineBase c t s) c.words := by
  apply List.ext_getElem (by simp [hl])
  intro i h1 h2
  have hi : i < c.words := by omega
  have e1 : data[i] = data.getD i 0#32 := (List.getD_eq_getElem _ _ h1).symm
  have e2 : (m.readBurst (lineBase c t s) c.words)[i] = (m.readBurst (lineBase c t s) c.words).getD i 0#32 :=
    (List.getD_eq_getElem _ _ h2).symm
  rw [e1, e2]
  apply word_ext
  intro j hj
  have hN : ((t * c.sets + s) * c.words * 4 + 4 * i + j) < 2 ^ 32 := by omega
  obtain ⟨b, hbn⟩ : ∃ b : Word, b.toNat = (t * c.sets + s) * c.words * 4 + 4 * i + j :=
    ⟨BitVec.ofNat 32 _, by rw [BitVec.toNat_ofNat]; exact Nat.mod_eq_of_lt hN⟩
  obtain ⟨ht', hs'⟩ := tag_set_of_mem (c := c) (t := t) (a := b) hs (by omega) (by omega)
  have hpb := address_parts c b
  rw [← block_of_tag_set, hs', ht'] at hpb
  have ho : blockOffset c b = i := by omega
  have hm : b.toNat % 4 = j := by omega
  have := h b hs' ht'
  have := byte_of_readBurst (m := m) hpos hb hs' ht'
  rw [ho, hm] at *
  simp_all

/-- A cache and a memory between the look-up of a store and the store itself: way `w` of the set holds the block, and what is seen is as
it was before. -/
structure Prepared (g : Config) (c : CacheCfg) (k : Cache) (m : Memory) (a : Word) (k1 : Cache) (m1 : Memory) (w : Nat) : Prop where
  lines : LinesInv g c k1
  clean : CleanAgrees c k1 m1
  memory : m1.wf = true
  seen : ∀ b, k1.seen c m1 b = k.seen c m b
  valid : (k1.line (setIndex c a) w).valid = true
  tag : (k1.line (setIndex c a) w).tag = tagIndex c a
  accesses : k1.stats.hits + k1.stats.misses = k1.tick
  fills : k1.stats.memReads ≤ k1.stats.misses
  writes : k1.stats.memWrites = k1.stats.writeBacks + k1.stats.throughStores
  grown : StatsGrown k.stats k1.stats

theorem Cache.prepared_hit {g : Config} {c : CacheCfg} {k : Cache} {m : Memory} {a : Word} {w : Nat} (h : CacheInv g c k) (hm : m.wf = true)
    (hc : CleanAgrees c k m) (hw : k.nextTick.hitWay (setIndex c a) (tagIndex c a) = some w) :
    Prepared g c k m a (k.nextTick.hit (setIndex c a) w) m w := by
  obtain ⟨hL, hf⟩ := h.lines.nextTick
  obtain ⟨hv, ht⟩ := Cache.hitWay_eq_some hw
  obtain ⟨hs, hwl⟩ := Cache.valid_bounds hL.shaped hv
  have hline := Cache.hit_line hL.shaped hs hwl
  have ha := h.accesses
  have hfl := h.fills
  have hwr := h.writes
  have hc' : CleanAgrees c k.nextTick m := hc.congr rfl
  constructor
  · exact Cache.hit_lines hL hf hv
  · exact Cache.hit_clean hL hc' hv
  · exact hm
  · intro b
    rw [Cache.hit_seen hL hf hv]
    exact Cache.seen_congr rfl m b
  · rw [hline]; exact hv
  · rw [hline]; exact ht
  · simp only [Cache.hit, Cache.nextTick, CacheStats.countHit, Cache.setLine_tick, Cache.setLine_stats]; omega
  · simp only [Cache.hit, Cache.nextTick, CacheStats.countHit, Cache.setLine_stats]; omega
  · simp only [Cache.hit, Cache.nextTick, CacheStats.countHit, Cache.setLine_stats]; omega
  · simp [StatsGrown, Cache.hit, Cache.nextTick, CacheStats.countHit]

theorem Cache.prepared_miss {g : Config} {c : CacheCfg} {k : Cache} {m : Memory} {a : Word} (hg : g.wellFormed = true)
    (hgeo : 1 ≤ c.sets ∧ 1 ≤ c.words ∧ 1 ≤ c.ways) (side : CacheSide) (h : CacheInv g c k) (hm : m.wf = true)
    (hc : CleanAgrees c k m) (hp : blockPlaced g c (tagIndex c a) (setIndex c a))
    (hw : k.nextTick.hitWay (setIndex c a) (tagIndex c a) = none) (w : Nat)
    (ew : w = (k.nextTick.miss side).victim c side (setIndex c a)) :
    Prepared g c k m a ((k.nextTick.miss side).allocate c m (setIndex c a) (tagIndex c a) w).1
      ((k.nextTick.miss side).allocate c m (setIndex c a) (tagIndex c a) w).2 w := by
  obtain ⟨hL, hf⟩ := h.lines.nextTick
  have ha := h.accesses
  have hfl := h.fills
  have hwr := h.writes
  obtain ⟨hL', hf'⟩ := Cache.miss_lines side hL hf
  have hs := setIndex_lt c a hgeo.1
  have hwlt : w < c.ways := by rw [ew]; exact Cache.victim_lt side (Cache.ways_length hL'.shaped hs) hgeo.2.2
  have hmiss := fun j => Cache.hitWay_eq_none (k := k.nextTick.miss side) (s := setIndex c a) (t := tagIndex c a) hw j
  have hc'' : CleanAgrees c (k.nextTick.miss side) m := hc.congr rfl
  have hline := Cache.allocate_line (t := tagIndex c a) hL'.shaped hs hwlt m (setIndex c a) w
  rw [if_pos ⟨rfl, rfl⟩] at hline
  obtain ⟨s1, s2, s3, s4, s5, s6, s7⟩ := Cache.allocate_stats c (k.nextTick.miss side) m (setIndex c a) (tagIndex c a) w
  simp only [Cache.miss, Cache.nextTick, CacheStats.countMiss] at s1 s2 s3 s4 s5 s6 s7
  constructor
  · exact Cache.allocate_lines hL' hf' hs hwlt hp hmiss m
  · exact Cache.allocate_clean hg hgeo.2.1 hL' hm hc'' hs hwlt
  · exact (Cache.allocate_memory hg hgeo.2.1 hL' hm _ _ w).1
  · intro b
    rw [Cache.allocate_seen hg hgeo.2.1 hL' hf' hm hc'' hs hwlt hp hmiss]
    exact Cache.seen_congr rfl m b
  · rw [hline]; rfl
  · rw [hline]; rfl
  · simp only [Cache.miss, Cache.nextTick, CacheStats.countMiss]; omega
  · simp only [Cache.miss, Cache.nextTick, CacheStats.countMiss]; omega
  · simp only [Cache.miss, Cache.nextTick, CacheStats.countMiss]
    rcases s6 with ⟨_, s6, s6'⟩ | ⟨_, s6, s6'⟩ <;> omega
  · simp only [StatsGrown, Cache.miss, Cache.nextTick, CacheStats.countMiss]
    rcases s6 with ⟨_, s6, _⟩ | ⟨_, s6, _⟩ <;> omega

/-- What a write of a cache leaves. -/
def WriteDone (g : Config) (c : CacheCfg) (k : Cache) (m : Memory) (a v : Word) (n : Width) (r : CacheMem) : Prop :=
  CacheInv g c r.1 ∧ StatsGrown k.stats r.1.stats ∧ r.2.wf = true ∧ CleanAgrees c r.1 r.2 ∧
  ∀ b, r.1.seen c r.2 b = if touches a n b then touchByte a v n b else k.seen c m b

/-- The store of the write-back policy, on the way that holds the block. -/
theorem Prepared.writeBack {g : Config} {c : CacheCfg} {k k1 : Cache} {m m1 : Memory} {a v : Word} {n : Width} {w : Nat}
    (h : Prepared g c k m a k1 m1 w) (hpos : 1 ≤ c.words) (ha : alignedTo a n = true) (hp : c.writePolicy = .writeBack) :
    WriteDone g c k m a v n
      (k1.setLine (setIndex c a) w { (k1.line (setIndex c a) w).merge c a v n with dirty := true }, m1) := by
  obtain ⟨hs, hw⟩ := Cache.valid_bounds h.lines.shaped h.valid
  have h' := h.lines.merge a v n h.valid true (fun x => absurd hp x)
  refine ⟨h'.cacheInv h.accesses h.fills h.writes, h.grown, h.memory, ?_, ?_⟩
  · exact h.clean.setLine h.lines.shaped hs hw (fun _ hd => by cases hd)
  · intro b
    rw [Cache.seen_merge ha hpos v h.lines h.valid h.tag h', h.seen]

/-- The store of the write-through policies, on the way that holds the block. -/
theorem Prepared.writeThrough {g : Config} {c : CacheCfg} {k k1 : Cache} {m m1 : Memory} {a v : Word} {n : Width} {w : Nat}
    (h : Prepared g c k m a k1 m1 w) (hg : g.wellFormed = true) (hpos : 1 ≤ c.words) (ha : alignedTo a n = true)
    (hp : c.writePolicy ≠ .writeBack) :
    WriteDone g c k m a v n
      ({ k1.setLine (setIndex c a) w ((k1.line (setIndex c a) w).merge c a v n) with
          stats := (k1.setLine (setIndex c a) w ((k1.line (setIndex c a) w).merge c a v n)).stats.countThrough }, m1.write a v n) := by
  obtain ⟨hs, hw⟩ := Cache.valid_bounds h.lines.shaped h.valid
  have hd : (k1.line (setIndex c a) w).dirty = false := h.lines.throughClean hp _ _
  have e : (k1.line (setIndex c a) w).merge c a v n = { (k1.line (setIndex c a) w).merge c a v n with dirty := false } := by
    rw [← hd]; rfl
  have h' := h.lines.merge a v n h.valid false (fun _ => rfl)
  have haa : a.toNat % widthBytes n = 0 := by simpa [alignedTo] using ha
  have hbyte := Memory.byte_write h.memory haa v
  rw [e]
  have hacc := h.accesses
  have hfil := h.fills
  have hwri := h.writes
  obtain ⟨g1, g2, g3, g4, g5⟩ := h.grown
  have hline := Cache.line_setLine h.lines.shaped hs hw { (k1.line (setIndex c a) w).merge c a v n with dirty := false }
  generalize hk2 : k1.setLine (setIndex c a) w { (k1.line (setIndex c a) w).merge c a v n with dirty := false } = k2 at h' hline ⊢
  have hst : k2.stats = k1.stats := by rw [← hk2]; rfl
  have htk : k2.tick = k1.tick := by rw [← hk2]; rfl
  have hlk : (k2.line (setIndex c a) w).valid = true ∧ (k2.line (setIndex c a) w).tag = tagIndex c a := by
    rw [hline, if_pos ⟨rfl, rfl⟩]; exact ⟨h.valid, h.tag⟩
  refine ⟨?_, ?_, Memory.wf_write h.memory a v n, ?_, ?_⟩
  · have hl : LinesInv g c { k2 with stats := k2.stats.countThrough } := h'.congr rfl (Nat.le_refl _)
    refine hl.cacheInv ?_ ?_ ?_ <;> simp only [hst, htk, CacheStats.countThrough] <;> omega
  · simp only [StatsGrown, hst, CacheStats.countThrough]; omega
  · intro s' w' hv' hd'
    have el : ∀ x y, (Cache.line { k2 with stats := k2.stats.countThrough } x y) = k2.line x y := fun x y => Cache.line_congr rfl x y
    simp only [el] at hv' hd' ⊢
    have hb := Line.placed_bounds hg (h'.placed s' w' hv')
    obtain ⟨hs', hw'⟩ := Cache.valid_bounds h'.shaped hv'
    refine data_eq_readBurst hpos hs' hb (h'.placed s' w' hv').1 ?_
    intro b hbs hbt
    subst hbs
    rw [← Cache.seen_of_line h' m1 hv' hbt.symm, hbyte]
    rw [← hk2, Cache.seen_merge ha hpos v h.lines h.valid h.tag (by rw [hk2]; exact h')]
    by_cases hx : touches a n b
    · rw [if_pos hx]; exact (if_pos hx).symm
    · rw [if_neg hx]
      have : ¬ (a.toNat ≤ b.toNat ∧ b.toNat < a.toNat + widthBytes n) := hx
      rw [if_neg this]
      -- the line is one of those that were there before
      by_cases hin : setIndex c b = setIndex c a ∧ w' = w
      · obtain ⟨h1, rfl⟩ := hin
        rw [h1, hlk.2] at hbt
        rw [Cache.seen_of_line h.lines m1 (w := w') (by rw [h1]; exact h.valid) (by rw [h1, hbt]; exact h.tag), h1,
          h.clean _ _ h.valid hd, h.tag]
        have hb1 := Line.placed_bounds hg (h.lines.placed _ _ h.valid)
        rw [h.tag] at hb1
        exact byte_of_readBurst hpos hb1 h1 hbt
      · have el' : k2.line (setIndex c b) w' = k1.line (setIndex c b) w' := by rw [hline, if_neg hin]
        rw [el'] at hv' hd' hbt
        rw [Cache.seen_of_line h.lines m1 hv' hbt.symm, h.clean _ _ hv' hd']
        exact byte_of_readBurst hpos (Line.placed_bounds hg (h.lines.placed _ _ hv')) rfl hbt
  · intro b
    have es : Cache.seen c { k2 with stats := k2.stats.countThrough } (m1.write a v n) b = k2.seen c (m1.write a v n) b :=
      Cache.seen_congr rfl _ b
    rw [es]
    have es2 : k2.seen c m1 b = if touches a n b then touchByte a v n b else k.seen c m b := by
      rw [← hk2, Cache.seen_merge ha hpos v h.lines h.valid h.tag (by rw [hk2]; exact h'), h.seen]
    rcases Cache.line_or_none c k2 b with ⟨j, hj, hjt⟩ | hn
    · rw [← es2, Cache.seen_of_line h' _ hj hjt, Cache.seen_of_line h' _ hj hjt]
    · rw [← es2, Cache.seen_of_no_line _ hn, Cache.seen_of_no_line _ hn, hbyte, if_neg]
      intro hx
      obtain ⟨h1, h2, _⟩ := same_word (c := c) (touched_word ha hx)
      exact hn w (by rw [h1]; exact hlk.1) (by rw [h1, h2]; exact hlk.2)

/-- The store of write-through without allocation, on a miss. -/
theorem Cache.throughMiss {g : Config} {c : CacheCfg} {k : Cache} {m : Memory} {a v : Word} {n : Width} (hg : g.wellFormed = true)
    (hpos : 1 ≤ c.words) (side : CacheSide) (h : CacheInv g c k) (hm : m.wf = true) (hc : CleanAgrees c k m) (ha : alignedTo a n = true)
    (hw : k.nextTick.hitWay (setIndex c a) (tagIndex c a) = none) :
    WriteDone g c k m a v n
      ({ k.nextTick.miss side with stats := (k.nextTick.miss side).stats.countThrough }, m.write a v n) := by
  have hL := h.lines.nextTick.1
  have hmiss := fun j => Cache.hitWay_eq_none (k := k.nextTick) (s := setIndex c a) (t := tagIndex c a) hw j
  have haa : a.toNat % widthBytes n = 0 := by simpa [alignedTo] using ha
  have hbyte := Memory.byte_write hm haa v
  have h1 := h.accesses
  have h2 := h.fills
  have h3 := h.writes
  refine ⟨?_, ?_, Memory.wf_write hm a v n, ?_, ?_⟩
  · have hl : LinesInv g c { k.nextTick.miss side with stats := (k.nextTick.miss side).stats.countThrough } := hL.congr rfl (Nat.le_refl _)
    refine hl.cacheInv ?_ ?_ ?_ <;>
      simp only [Cache.miss, Cache.nextTick, CacheStats.countThrough, CacheStats.countMiss] <;> omega
  · simp only [StatsGrown, Cache.miss, Cache.nextTick, CacheStats.countThrough, CacheStats.countMiss]; omega
  · intro s' w' hv hd
    have hv1 : (k.line s' w').valid = true := hv
    have hd1 : (k.line s' w').dirty = false := hd
    have hb := Line.placed_bounds hg (h.placed s' w' hv1)
    obtain ⟨hs', _⟩ := Cache.valid_bounds h.lines.shaped hv1
    show (k.line s' w').data = (m.write a v n).readBurst (lineBase c (k.line s' w').tag s') c.words
    rw [hc s' w' hv1 hd1]
    have hbase : (lineBase c (k.line s' w').tag s').toNat = ((k.line s' w').tag * c.sets + s') * c.words * 4 := lineBase_toNat (by omega)
    symm
    apply Memory.readBurst_congr (by omega)
    intro b hb1 hb2
    rw [hbase] at hb1 hb2
    obtain ⟨ht2, hs2⟩ := tag_set_of_mem hs' hb1 hb2
    rw [hbyte, if_neg]
    intro hx
    obtain ⟨e1, e2, _⟩ := same_word (c := c) (touched_word ha hx)
    refine hmiss w' ?_ ?_
    · show (k.line _ _).valid = true
      rw [← e1, hs2]; exact hv1
    · show (k.line _ _).tag = _
      rw [← e1, hs2, ← e2, ht2]
  · intro b
    have es : ∀ m', Cache.seen c { k.nextTick.miss side with stats := (k.nextTick.miss side).stats.countThrough } m' b = k.seen c m' b :=
      fun m' => Cache.seen_congr rfl _ b
    rw [es]
    by_cases hx : touches a n b
    · rw [if_pos hx]
      obtain ⟨e1, e2, _⟩ := same_word (c := c) (touched_word ha hx)
      rw [Cache.seen_of_no_line, hbyte]
      · exact if_pos hx
      · rw [e1, e2]; exact hmiss
    · rw [if_neg hx]
      rcases Cache.line_or_none c k b with ⟨j, hj, hjt⟩ | hn
      · rw [Cache.seen_of_line h.lines _ hj hjt, Cache.seen_of_line h.lines _ hj hjt]
      · rw [Cache.seen_of_no_line _ hn, Cache.seen_of_no_line _ hn, hbyte]
        exact if_neg hx

/-- R110 to R113: what a write of a cache leaves, under every policy. -/
theorem Cache.write_spec {g : Config} {c : CacheCfg} {k : Cache} {m : Memory} {a : Word} {n : Width} (hg : g.wellFormed = true)
    (hgeo : 1 ≤ c.sets ∧ 1 ≤ c.words ∧ 1 ≤ c.ways) (side : CacheSide) (h : CacheInv g c k) (hm : m.wf = true) (hc : CleanAgrees c k m)
    (ha : alignedTo a n = true) (hp : blockPlaced g c (tagIndex c a) (setIndex c a)) (v : Word) :
    WriteDone g c k m a v n (k.write c side m a v n) := by
  unfold Cache.write
  split
  · rename_i hpol
    unfold Cache.writeBackStore
    cases hw : k.nextTick.hitWay (setIndex c a) (tagIndex c a) with
    | some w =>
      simp only [hw]
      exact (Cache.prepared_hit h hm hc hw).writeBack hgeo.2.1 ha hpol
    | none =>
      simp only [hw]
      exact (Cache.prepared_miss hg hgeo side h hm hc hp hw _ rfl).writeBack hgeo.2.1 ha hpol
  · rename_i hpol
    unfold Cache.throughNoAllocStore
    cases hw : k.nextTick.hitWay (setIndex c a) (tagIndex c a) with
    | some w =>
      simp only [hw]
      exact (Cache.prepared_hit h hm hc hw).writeThrough hg hgeo.2.1 ha (by rw [hpol]; decide)
    | none =>
      simp only [hw]
      exact Cache.throughMiss hg hgeo.2.1 side h hm hc ha hw
  · rename_i hpol
    unfold Cache.throughAllocStore
    cases hw : k.nextTick.hitWay (setIndex c a) (tagIndex c a) with
    | some w =>
      simp only [hw]
      exact (Cache.prepared_hit h hm hc hw).writeThrough hg hgeo.2.1 ha (by rw [hpol]; decide)
    | none =>
      simp only [hw]
      exact (Cache.prepared_miss hg hgeo side h hm hc hp hw _ rfl).writeThrough hg hgeo.2.1 ha (by rw [hpol]; decide)

/-! Reset. -/

/-- No line of a cache after reset is valid or dirty. -/
theorem Cache.line_reset (c : CacheCfg) (s w : Nat) : (Cache.reset c).line s w = Line.invalid := by
  unfold Cache.line Cache.ways Cache.reset
  split
  · by_cases hs : s < c.sets
    · by_cases hw : w < c.ways
      · simp [List.getD_eq_getElem?_getD, hs, hw]
      · simp [List.getD_eq_getElem?_getD, hs, hw]
    · simp [List.getD_eq_getElem?_getD, hs]
  · simp

/-- A cache after reset meets the invariants, whatever memory holds. -/
theorem CacheInv.ofReset (g : Config) {c : CacheCfg} (he : c.enabled = true) (m : Memory) :
    CacheInv g c (Cache.reset c) ∧ CleanAgrees c (Cache.reset c) m ∧ ∀ s w, ((Cache.reset c).line s w).dirty = false := by
  have hl := Cache.line_reset c
  refine ⟨⟨?_, ?_, ?_, ?_, ?_, ?_, ?_, ?_, ?_, ?_, ?_⟩, ?_, ?_⟩
  · simp [Cache.reset, he]
  · intro ways h
    simp only [Cache.reset, he, if_true] at h
    rw [List.eq_of_mem_replicate h]
    simp
  · intro s w h; rw [hl] at h; cases h
  · intro s i j h; rw [hl] at h; cases h
  · intro s i j h; rw [hl] at h; cases h
  · intro s w h; rw [hl] at h; cases h
  · intro s w h; rw [hl] at h; cases h
  · intro _ s w; rw [hl]; rfl
  · rfl
  · exact Nat.le_refl _
  · rfl
  · intro s w h; rw [hl] at h; cases h
  · intro s w; rw [hl]; rfl

end Sys2Proof.Machine
end

