-- ==== Sys2Proof/Laws/State.lean ====
section
/-! SUPPORT. One lemma per field and update of the state: an update leaves the fields it does not name (10_state.md). -/

namespace Sys2Proof.Machine

/-! `State.emit`. -/

@[simp] theorem State.emit_cfg (s : State) (e : Notification) : (s.emit e).cfg = s.cfg := rfl
@[simp] theorem State.emit_gpr (s : State) (e : Notification) : (s.emit e).gpr = s.gpr := rfl
@[simp] theorem State.emit_pc (s : State) (e : Notification) : (s.emit e).pc = s.pc := rfl
@[simp] theorem State.emit_hi (s : State) (e : Notification) : (s.emit e).hi = s.hi := rfl
@[simp] theorem State.emit_lo (s : State) (e : Notification) : (s.emit e).lo = s.lo := rfl
@[simp] theorem State.emit_badVAddr (s : State) (e : Notification) : (s.emit e).badVAddr = s.badVAddr := rfl
@[simp] theorem State.emit_cp0Status (s : State) (e : Notification) : (s.emit e).cp0Status = s.cp0Status := rfl
@[simp] theorem State.emit_cause (s : State) (e : Notification) : (s.emit e).cause = s.cause := rfl
@[simp] theorem State.emit_epc (s : State) (e : Notification) : (s.emit e).epc = s.epc := rfl
@[simp] theorem State.emit_mem (s : State) (e : Notification) : (s.emit e).mem = s.mem := rfl
@[simp] theorem State.emit_iCache (s : State) (e : Notification) : (s.emit e).iCache = s.iCache := rfl
@[simp] theorem State.emit_dCache (s : State) (e : Notification) : (s.emit e).dCache = s.dCache := rfl
@[simp] theorem State.emit_pendingTarget (s : State) (e : Notification) : (s.emit e).pendingTarget = s.pendingTarget := rfl
@[simp] theorem State.emit_ifId (s : State) (e : Notification) : (s.emit e).ifId = s.ifId := rfl
@[simp] theorem State.emit_idEx (s : State) (e : Notification) : (s.emit e).idEx = s.idEx := rfl
@[simp] theorem State.emit_exMem (s : State) (e : Notification) : (s.emit e).exMem = s.exMem := rfl
@[simp] theorem State.emit_memWb (s : State) (e : Notification) : (s.emit e).memWb = s.memWb := rfl
@[simp] theorem State.emit_pendingRedirect (s : State) (e : Notification) : (s.emit e).pendingRedirect = s.pendingRedirect := rfl
@[simp] theorem State.emit_exDelaySlot (s : State) (e : Notification) : (s.emit e).exDelaySlot = s.exDelaySlot := rfl
@[simp] theorem State.emit_run (s : State) (e : Notification) : (s.emit e).run = s.run := rfl
@[simp] theorem State.emit_cycles (s : State) (e : Notification) : (s.emit e).cycles = s.cycles := rfl
@[simp] theorem State.emit_draws (s : State) (e : Notification) : (s.emit e).draws = s.draws := rfl
@[simp] theorem State.emit_symbols (s : State) (e : Notification) : (s.emit e).symbols = s.symbols := rfl
@[simp] theorem State.emit_events (s : State) (e : Notification) : (s.emit e).events = s.events ++ [e] := rfl

/-! `State.setHi`. -/

@[simp] theorem State.setHi_hi (s : State) (v : Word) : (s.setHi v).hi = v := rfl
@[simp] theorem State.setHi_cfg (s : State) (v : Word) : (s.setHi v).cfg = s.cfg := rfl
@[simp] theorem State.setHi_gpr (s : State) (v : Word) : (s.setHi v).gpr = s.gpr := rfl
@[simp] theorem State.setHi_pc (s : State) (v : Word) : (s.setHi v).pc = s.pc := rfl
@[simp] theorem State.setHi_lo (s : State) (v : Word) : (s.setHi v).lo = s.lo := rfl
@[simp] theorem State.setHi_badVAddr (s : State) (v : Word) : (s.setHi v).badVAddr = s.badVAddr := rfl
@[simp] theorem State.setHi_cp0Status (s : State) (v : Word) : (s.setHi v).cp0Status = s.cp0Status := rfl
@[simp] theorem State.setHi_cause (s : State) (v : Word) : (s.setHi v).cause = s.cause := rfl
@[simp] theorem State.setHi_epc (s : State) (v : Word) : (s.setHi v).epc = s.epc := rfl
@[simp] theorem State.setHi_mem (s : State) (v : Word) : (s.setHi v).mem = s.mem := rfl
@[simp] theorem State.setHi_iCache (s : State) (v : Word) : (s.setHi v).iCache = s.iCache := rfl
@[simp] theorem State.setHi_dCache (s : State) (v : Word) : (s.setHi v).dCache = s.dCache := rfl
@[simp] theorem State.setHi_pendingTarget (s : State) (v : Word) : (s.setHi v).pendingTarget = s.pendingTarget := rfl
@[simp] theorem State.setHi_ifId (s : State) (v : Word) : (s.setHi v).ifId = s.ifId := rfl
@[simp] theorem State.setHi_idEx (s : State) (v : Word) : (s.setHi v).idEx = s.idEx := rfl
@[simp] theorem State.setHi_exMem (s : State) (v : Word) : (s.setHi v).exMem = s.exMem := rfl
@[simp] theorem State.setHi_memWb (s : State) (v : Word) : (s.setHi v).memWb = s.memWb := rfl
@[simp] theorem State.setHi_pendingRedirect (s : State) (v : Word) : (s.setHi v).pendingRedirect = s.pendingRedirect := rfl
@[simp] theorem State.setHi_exDelaySlot (s : State) (v : Word) : (s.setHi v).exDelaySlot = s.exDelaySlot := rfl
@[simp] theorem State.setHi_run (s : State) (v : Word) : (s.setHi v).run = s.run := rfl
@[simp] theorem State.setHi_cycles (s : State) (v : Word) : (s.setHi v).cycles = s.cycles := rfl
@[simp] theorem State.setHi_draws (s : State) (v : Word) : (s.setHi v).draws = s.draws := rfl
@[simp] theorem State.setHi_symbols (s : State) (v : Word) : (s.setHi v).symbols = s.symbols := rfl

/-! `State.setLo`. -/

@[simp] theorem State.setLo_lo (s : State) (v : Word) : (s.setLo v).lo = v := rfl
@[simp] theorem State.setLo_cfg (s : State) (v : Word) : (s.setLo v).cfg = s.cfg := rfl
@[simp] theorem State.setLo_gpr (s : State) (v : Word) : (s.setLo v).gpr = s.gpr := rfl
@[simp] theorem State.setLo_pc (s : State) (v : Word) : (s.setLo v).pc = s.pc := rfl
@[simp] theorem State.setLo_hi (s : State) (v : Word) : (s.setLo v).hi = s.hi := rfl
@[simp] theorem State.setLo_badVAddr (s : State) (v : Word) : (s.setLo v).badVAddr = s.badVAddr := rfl
@[simp] theorem State.setLo_cp0Status (s : State) (v : Word) : (s.setLo v).cp0Status = s.cp0Status := rfl
@[simp] theorem State.setLo_cause (s : State) (v : Word) : (s.setLo v).cause = s.cause := rfl
@[simp] theorem State.setLo_epc (s : State) (v : Word) : (s.setLo v).epc = s.epc := rfl
@[simp] theorem State.setLo_mem (s : State) (v : Word) : (s.setLo v).mem = s.mem := rfl
@[simp] theorem State.setLo_iCache (s : State) (v : Word) : (s.setLo v).iCache = s.iCache := rfl
@[simp] theorem State.setLo_dCache (s : State) (v : Word) : (s.setLo v).dCache = s.dCache := rfl
@[simp] theorem State.setLo_pendingTarget (s : State) (v : Word) : (s.setLo v).pendingTarget = s.pendingTarget := rfl
@[simp] theorem State.setLo_ifId (s : State) (v : Word) : (s.setLo v).ifId = s.ifId := rfl
@[simp] theorem State.setLo_idEx (s : State) (v : Word) : (s.setLo v).idEx = s.idEx := rfl
@[simp] theorem State.setLo_exMem (s : State) (v : Word) : (s.setLo v).exMem = s.exMem := rfl
@[simp] theorem State.setLo_memWb (s : State) (v : Word) : (s.setLo v).memWb = s.memWb := rfl
@[simp] theorem State.setLo_pendingRedirect (s : State) (v : Word) : (s.setLo v).pendingRedirect = s.pendingRedirect := rfl
@[simp] theorem State.setLo_exDelaySlot (s : State) (v : Word) : (s.setLo v).exDelaySlot = s.exDelaySlot := rfl
@[simp] theorem State.setLo_run (s : State) (v : Word) : (s.setLo v).run = s.run := rfl
@[simp] theorem State.setLo_cycles (s : State) (v : Word) : (s.setLo v).cycles = s.cycles := rfl
@[simp] theorem State.setLo_draws (s : State) (v : Word) : (s.setLo v).draws = s.draws := rfl
@[simp] theorem State.setLo_symbols (s : State) (v : Word) : (s.setLo v).symbols = s.symbols := rfl

/-! `State.setPc`. -/

@[simp] theorem State.setPc_pc (s : State) (v : Word) : (s.setPc v).pc = v := rfl
@[simp] theorem State.setPc_cfg (s : State) (v : Word) : (s.setPc v).cfg = s.cfg := rfl
@[simp] theorem State.setPc_gpr (s : State) (v : Word) : (s.setPc v).gpr = s.gpr := rfl
@[simp] theorem State.setPc_hi (s : State) (v : Word) : (s.setPc v).hi = s.hi := rfl
@[simp] theorem State.setPc_lo (s : State) (v : Word) : (s.setPc v).lo = s.lo := rfl
@[simp] theorem State.setPc_badVAddr (s : State) (v : Word) : (s.setPc v).badVAddr = s.badVAddr := rfl
@[simp] theorem State.setPc_cp0Status (s : State) (v : Word) : (s.setPc v).cp0Status = s.cp0Status := rfl
@[simp] theorem State.setPc_cause (s : State) (v : Word) : (s.setPc v).cause = s.cause := rfl
@[simp] theorem State.setPc_epc (s : State) (v : Word) : (s.setPc v).epc = s.epc := rfl
@[simp] theorem State.setPc_mem (s : State) (v : Word) : (s.setPc v).mem = s.mem := rfl
@[simp] theorem State.setPc_iCache (s : State) (v : Word) : (s.setPc v).iCache = s.iCache := rfl
@[simp] theorem State.setPc_dCache (s : State) (v : Word) : (s.setPc v).dCache = s.dCache := rfl
@[simp] theorem State.setPc_pendingTarget (s : State) (v : Word) : (s.setPc v).pendingTarget = s.pendingTarget := rfl
@[simp] theorem State.setPc_ifId (s : State) (v : Word) : (s.setPc v).ifId = s.ifId := rfl
@[simp] theorem State.setPc_idEx (s : State) (v : Word) : (s.setPc v).idEx = s.idEx := rfl
@[simp] theorem State.setPc_exMem (s : State) (v : Word) : (s.setPc v).exMem = s.exMem := rfl
@[simp] theorem State.setPc_memWb (s : State) (v : Word) : (s.setPc v).memWb = s.memWb := rfl
@[simp] theorem State.setPc_pendingRedirect (s : State) (v : Word) : (s.setPc v).pendingRedirect = s.pendingRedirect := rfl
@[simp] theorem State.setPc_exDelaySlot (s : State) (v : Word) : (s.setPc v).exDelaySlot = s.exDelaySlot := rfl
@[simp] theorem State.setPc_run (s : State) (v : Word) : (s.setPc v).run = s.run := rfl
@[simp] theorem State.setPc_cycles (s : State) (v : Word) : (s.setPc v).cycles = s.cycles := rfl
@[simp] theorem State.setPc_draws (s : State) (v : Word) : (s.setPc v).draws = s.draws := rfl
@[simp] theorem State.setPc_symbols (s : State) (v : Word) : (s.setPc v).symbols = s.symbols := rfl

/-! `State.setCp0`. -/

@[simp] theorem State.setCp0_cfg (s : State) (c : Cp0Reg) (v : Word) : (s.setCp0 c v).cfg = s.cfg := by cases c <;> rfl
@[simp] theorem State.setCp0_gpr (s : State) (c : Cp0Reg) (v : Word) : (s.setCp0 c v).gpr = s.gpr := by cases c <;> rfl
@[simp] theorem State.setCp0_pc (s : State) (c : Cp0Reg) (v : Word) : (s.setCp0 c v).pc = s.pc := by cases c <;> rfl
@[simp] theorem State.setCp0_hi (s : State) (c : Cp0Reg) (v : Word) : (s.setCp0 c v).hi = s.hi := by cases c <;> rfl
@[simp] theorem State.setCp0_lo (s : State) (c : Cp0Reg) (v : Word) : (s.setCp0 c v).lo = s.lo := by cases c <;> rfl
@[simp] theorem State.setCp0_mem (s : State) (c : Cp0Reg) (v : Word) : (s.setCp0 c v).mem = s.mem := by cases c <;> rfl
@[simp] theorem State.setCp0_iCache (s : State) (c : Cp0Reg) (v : Word) : (s.setCp0 c v).iCache = s.iCache := by cases c <;> rfl
@[simp] theorem State.setCp0_dCache (s : State) (c : Cp0Reg) (v : Word) : (s.setCp0 c v).dCache = s.dCache := by cases c <;> rfl
@[simp] theorem State.setCp0_pendingTarget (s : State) (c : Cp0Reg) (v : Word) : (s.setCp0 c v).pendingTarget = s.pendingTarget := by cases c <;> rfl
@[simp] theorem State.setCp0_ifId (s : State) (c : Cp0Reg) (v : Word) : (s.setCp0 c v).ifId = s.ifId := by cases c <;> rfl
@[simp] theorem State.setCp0_idEx (s : State) (c : Cp0Reg) (v : Word) : (s.setCp0 c v).idEx = s.idEx := by cases c <;> rfl
@[simp] theorem State.setCp0_exMem (s : State) (c : Cp0Reg) (v : Word) : (s.setCp0 c v).exMem = s.exMem := by cases c <;> rfl
@[simp] theorem State.setCp0_memWb (s : State) (c : Cp0Reg) (v : Word) : (s.setCp0 c v).memWb = s.memWb := by cases c <;> rfl
@[simp] theorem State.setCp0_pendingRedirect (s : State) (c : Cp0Reg) (v : Word) : (s.setCp0 c v).pendingRedirect = s.pendingRedirect := by cases c <;> rfl
@[simp] theorem State.setCp0_exDelaySlot (s : State) (c : Cp0Reg) (v : Word) : (s.setCp0 c v).exDelaySlot = s.exDelaySlot := by cases c <;> rfl
@[simp] theorem State.setCp0_run (s : State) (c : Cp0Reg) (v : Word) : (s.setCp0 c v).run = s.run := by cases c <;> rfl
@[simp] theorem State.setCp0_cycles (s : State) (c : Cp0Reg) (v : Word) : (s.setCp0 c v).cycles = s.cycles := by cases c <;> rfl
@[simp] theorem State.setCp0_draws (s : State) (c : Cp0Reg) (v : Word) : (s.setCp0 c v).draws = s.draws := by cases c <;> rfl
@[simp] theorem State.setCp0_symbols (s : State) (c : Cp0Reg) (v : Word) : (s.setCp0 c v).symbols = s.symbols := by cases c <;> rfl

/-! `State.setX`. -/

@[simp] theorem State.setX_cfg (s : State) (r : Reg) (v : Word) : (s.setX r v).cfg = s.cfg := by unfold State.setX; split <;> rfl
@[simp] theorem State.setX_pc (s : State) (r : Reg) (v : Word) : (s.setX r v).pc = s.pc := by unfold State.setX; split <;> rfl
@[simp] theorem State.setX_hi (s : State) (r : Reg) (v : Word) : (s.setX r v).hi = s.hi := by unfold State.setX; split <;> rfl
@[simp] theorem State.setX_lo (s : State) (r : Reg) (v : Word) : (s.setX r v).lo = s.lo := by unfold State.setX; split <;> rfl
@[simp] theorem State.setX_badVAddr (s : State) (r : Reg) (v : Word) : (s.setX r v).badVAddr = s.badVAddr := by unfold State.setX; split <;> rfl
@[simp] theorem State.setX_cp0Status (s : State) (r : Reg) (v : Word) : (s.setX r v).cp0Status = s.cp0Status := by unfold State.setX; split <;> rfl
@[simp] theorem State.setX_cause (s : State) (r : Reg) (v : Word) : (s.setX r v).cause = s.cause := by unfold State.setX; split <;> rfl
@[simp] theorem State.setX_epc (s : State) (r : Reg) (v : Word) : (s.setX r v).epc = s.epc := by unfold State.setX; split <;> rfl
@[simp] theorem State.setX_mem (s : State) (r : Reg) (v : Word) : (s.setX r v).mem = s.mem := by unfold State.setX; split <;> rfl
@[simp] theorem State.setX_iCache (s : State) (r : Reg) (v : Word) : (s.setX r v).iCache = s.iCache := by unfold State.setX; split <;> rfl
@[simp] theorem State.setX_dCache (s : State) (r : Reg) (v : Word) : (s.setX r v).dCache = s.dCache := by unfold State.setX; split <;> rfl
@[simp] theorem State.setX_pendingTarget (s : State) (r : Reg) (v : Word) : (s.setX r v).pendingTarget = s.pendingTarget := by unfold State.setX; split <;> rfl
@[simp] theorem State.setX_ifId (s : State) (r : Reg) (v : Word) : (s.setX r v).ifId = s.ifId := by unfold State.setX; split <;> rfl
@[simp] theorem State.setX_idEx (s : State) (r : Reg) (v : Word) : (s.setX r v).idEx = s.idEx := by unfold State.setX; split <;> rfl
@[simp] theorem State.setX_exMem (s : State) (r : Reg) (v : Word) : (s.setX r v).exMem = s.exMem := by unfold State.setX; split <;> rfl
@[simp] theorem State.setX_memWb (s : State) (r : Reg) (v : Word) : (s.setX r v).memWb = s.memWb := by unfold State.setX; split <;> rfl
@[simp] theorem State.setX_pendingRedirect (s : State) (r : Reg) (v : Word) : (s.setX r v).pendingRedirect = s.pendingRedirect := by unfold State.setX; split <;> rfl
@[simp] theorem State.setX_exDelaySlot (s : State) (r : Reg) (v : Word) : (s.setX r v).exDelaySlot = s.exDelaySlot := by unfold State.setX; split <;> rfl
@[simp] theorem State.setX_run (s : State) (r : Reg) (v : Word) : (s.setX r v).run = s.run := by unfold State.setX; split <;> rfl
@[simp] theorem State.setX_cycles (s : State) (r : Reg) (v : Word) : (s.setX r v).cycles = s.cycles := by unfold State.setX; split <;> rfl
@[simp] theorem State.setX_draws (s : State) (r : Reg) (v : Word) : (s.setX r v).draws = s.draws := by unfold State.setX; split <;> rfl
@[simp] theorem State.setX_symbols (s : State) (r : Reg) (v : Word) : (s.setX r v).symbols = s.symbols := by unfold State.setX; split <;> rfl

/-! `State.setDest`. -/

@[simp] theorem State.setDest_cfg (s : State) (d : Option Reg) (v : Option Word) : (s.setDest d v).cfg = s.cfg := by cases d <;> cases v <;> simp [State.setDest]
@[simp] theorem State.setDest_pc (s : State) (d : Option Reg) (v : Option Word) : (s.setDest d v).pc = s.pc := by cases d <;> cases v <;> simp [State.setDest]
@[simp] theorem State.setDest_hi (s : State) (d : Option Reg) (v : Option Word) : (s.setDest d v).hi = s.hi := by cases d <;> cases v <;> simp [State.setDest]
@[simp] theorem State.setDest_lo (s : State) (d : Option Reg) (v : Option Word) : (s.setDest d v).lo = s.lo := by cases d <;> cases v <;> simp [State.setDest]
@[simp] theorem State.setDest_badVAddr (s : State) (d : Option Reg) (v : Option Word) : (s.setDest d v).badVAddr = s.badVAddr := by cases d <;> cases v <;> simp [State.setDest]
@[simp] theorem State.setDest_cp0Status (s : State) (d : Option Reg) (v : Option Word) : (s.setDest d v).cp0Status = s.cp0Status := by cases d <;> cases v <;> simp [State.setDest]
@[simp] theorem State.setDest_cause (s : State) (d : Option Reg) (v : Option Word) : (s.setDest d v).cause = s.cause := by cases d <;> cases v <;> simp [State.setDest]
@[simp] theorem State.setDest_epc (s : State) (d : Option Reg) (v : Option Word) : (s.setDest d v).epc = s.epc := by cases d <;> cases v <;> simp [State.setDest]
@[simp] theorem State.setDest_mem (s : State) (d : Option Reg) (v : Option Word) : (s.setDest d v).mem = s.mem := by cases d <;> cases v <;> simp [State.setDest]
@[simp] theorem State.setDest_iCache (s : State) (d : Option Reg) (v : Option Word) : (s.setDest d v).iCache = s.iCache := by cases d <;> cases v <;> simp [State.setDest]
@[simp] theorem State.setDest_dCache (s : State) (d : Option Reg) (v : Option Word) : (s.setDest d v).dCache = s.dCache := by cases d <;> cases v <;> simp [State.setDest]
@[simp] theorem State.setDest_pendingTarget (s : State) (d : Option Reg) (v : Option Word) : (s.setDest d v).pendingTarget = s.pendingTarget := by cases d <;> cases v <;> simp [State.setDest]
@[simp] theorem State.setDest_ifId (s : State) (d : Option Reg) (v : Option Word) : (s.setDest d v).ifId = s.ifId := by cases d <;> cases v <;> simp [State.setDest]
@[simp] theorem State.setDest_idEx (s : State) (d : Option Reg) (v : Option Word) : (s.setDest d v).idEx = s.idEx := by cases d <;> cases v <;> simp [State.setDest]
@[simp] theorem State.setDest_exMem (s : State) (d : Option Reg) (v : Option Word) : (s.setDest d v).exMem = s.exMem := by cases d <;> cases v <;> simp [State.setDest]
@[simp] theorem State.setDest_memWb (s : State) (d : Option Reg) (v : Option Word) : (s.setDest d v).memWb = s.memWb := by cases d <;> cases v <;> simp [State.setDest]
@[simp] theorem State.setDest_pendingRedirect (s : State) (d : Option Reg) (v : Option Word) : (s.setDest d v).pendingRedirect = s.pendingRedirect := by cases d <;> cases v <;> simp [State.setDest]
@[simp] theorem State.setDest_exDelaySlot (s : State) (d : Option Reg) (v : Option Word) : (s.setDest d v).exDelaySlot = s.exDelaySlot := by cases d <;> cases v <;> simp [State.setDest]
@[simp] theorem State.setDest_run (s : State) (d : Option Reg) (v : Option Word) : (s.setDest d v).run = s.run := by cases d <;> cases v <;> simp [State.setDest]
@[simp] theorem State.setDest_cycles (s : State) (d : Option Reg) (v : Option Word) : (s.setDest d v).cycles = s.cycles := by cases d <;> cases v <;> simp [State.setDest]
@[simp] theorem State.setDest_draws (s : State) (d : Option Reg) (v : Option Word) : (s.setDest d v).draws = s.draws := by cases d <;> cases v <;> simp [State.setDest]
@[simp] theorem State.setDest_symbols (s : State) (d : Option Reg) (v : Option Word) : (s.setDest d v).symbols = s.symbols := by cases d <;> cases v <;> simp [State.setDest]

/-! `State.latchBadVAddr`. -/

@[simp] theorem State.latchBadVAddr_cfg (s : State) (a : Option Word) : (s.latchBadVAddr a).cfg = s.cfg := by cases a <;> rfl
@[simp] theorem State.latchBadVAddr_gpr (s : State) (a : Option Word) : (s.latchBadVAddr a).gpr = s.gpr := by cases a <;> rfl
@[simp] theorem State.latchBadVAddr_pc (s : State) (a : Option Word) : (s.latchBadVAddr a).pc = s.pc := by cases a <;> rfl
@[simp] theorem State.latchBadVAddr_hi (s : State) (a : Option Word) : (s.latchBadVAddr a).hi = s.hi := by cases a <;> rfl
@[simp] theorem State.latchBadVAddr_lo (s : State) (a : Option Word) : (s.latchBadVAddr a).lo = s.lo := by cases a <;> rfl
@[simp] theorem State.latchBadVAddr_cp0Status (s : State) (a : Option Word) : (s.latchBadVAddr a).cp0Status = s.cp0Status := by cases a <;> rfl
@[simp] theorem State.latchBadVAddr_cause (s : State) (a : Option Word) : (s.latchBadVAddr a).cause = s.cause := by cases a <;> rfl
@[simp] theorem State.latchBadVAddr_epc (s : State) (a : Option Word) : (s.latchBadVAddr a).epc = s.epc := by cases a <;> rfl
@[simp] theorem State.latchBadVAddr_mem (s : State) (a : Option Word) : (s.latchBadVAddr a).mem = s.mem := by cases a <;> rfl
@[simp] theorem State.latchBadVAddr_iCache (s : State) (a : Option Word) : (s.latchBadVAddr a).iCache = s.iCache := by cases a <;> rfl
@[simp] theorem State.latchBadVAddr_dCache (s : State) (a : Option Word) : (s.latchBadVAddr a).dCache = s.dCache := by cases a <;> rfl
@[simp] theorem State.latchBadVAddr_pendingTarget (s : State) (a : Option Word) : (s.latchBadVAddr a).pendingTarget = s.pendingTarget := by cases a <;> rfl
@[simp] theorem State.latchBadVAddr_ifId (s : State) (a : Option Word) : (s.latchBadVAddr a).ifId = s.ifId := by cases a <;> rfl
@[simp] theorem State.latchBadVAddr_idEx (s : State) (a : Option Word) : (s.latchBadVAddr a).idEx = s.idEx := by cases a <;> rfl
@[simp] theorem State.latchBadVAddr_exMem (s : State) (a : Option Word) : (s.latchBadVAddr a).exMem = s.exMem := by cases a <;> rfl
@[simp] theorem State.latchBadVAddr_memWb (s : State) (a : Option Word) : (s.latchBadVAddr a).memWb = s.memWb := by cases a <;> rfl
@[simp] theorem State.latchBadVAddr_pendingRedirect (s : State) (a : Option Word) : (s.latchBadVAddr a).pendingRedirect = s.pendingRedirect := by cases a <;> rfl
@[simp] theorem State.latchBadVAddr_exDelaySlot (s : State) (a : Option Word) : (s.latchBadVAddr a).exDelaySlot = s.exDelaySlot := by cases a <;> rfl
@[simp] theorem State.latchBadVAddr_run (s : State) (a : Option Word) : (s.latchBadVAddr a).run = s.run := by cases a <;> rfl
@[simp] theorem State.latchBadVAddr_cycles (s : State) (a : Option Word) : (s.latchBadVAddr a).cycles = s.cycles := by cases a <;> rfl
@[simp] theorem State.latchBadVAddr_draws (s : State) (a : Option Word) : (s.latchBadVAddr a).draws = s.draws := by cases a <;> rfl
@[simp] theorem State.latchBadVAddr_symbols (s : State) (a : Option Word) : (s.latchBadVAddr a).symbols = s.symbols := by cases a <;> rfl

/-! `State.takeTrap`. -/

@[simp] theorem State.takeTrap_cfg (s : State) (p : Word) (k : TrapKind) (a : Option Word) : (s.takeTrap p k a).cfg = s.cfg := by cases a <;> rfl
@[simp] theorem State.takeTrap_gpr (s : State) (p : Word) (k : TrapKind) (a : Option Word) : (s.takeTrap p k a).gpr = s.gpr := by cases a <;> rfl
@[simp] theorem State.takeTrap_hi (s : State) (p : Word) (k : TrapKind) (a : Option Word) : (s.takeTrap p k a).hi = s.hi := by cases a <;> rfl
@[simp] theorem State.takeTrap_lo (s : State) (p : Word) (k : TrapKind) (a : Option Word) : (s.takeTrap p k a).lo = s.lo := by cases a <;> rfl
@[simp] theorem State.takeTrap_cp0Status (s : State) (p : Word) (k : TrapKind) (a : Option Word) : (s.takeTrap p k a).cp0Status = s.cp0Status := by cases a <;> rfl
@[simp] theorem State.takeTrap_mem (s : State) (p : Word) (k : TrapKind) (a : Option Word) : (s.takeTrap p k a).mem = s.mem := by cases a <;> rfl
@[simp] theorem State.takeTrap_iCache (s : State) (p : Word) (k : TrapKind) (a : Option Word) : (s.takeTrap p k a).iCache = s.iCache := by cases a <;> rfl
@[simp] theorem State.takeTrap_dCache (s : State) (p : Word) (k : TrapKind) (a : Option Word) : (s.takeTrap p k a).dCache = s.dCache := by cases a <;> rfl
@[simp] theorem State.takeTrap_pendingTarget (s : State) (p : Word) (k : TrapKind) (a : Option Word) : (s.takeTrap p k a).pendingTarget = s.pendingTarget := by cases a <;> rfl
@[simp] theorem State.takeTrap_ifId (s : State) (p : Word) (k : TrapKind) (a : Option Word) : (s.takeTrap p k a).ifId = s.ifId := by cases a <;> rfl
@[simp] theorem State.takeTrap_idEx (s : State) (p : Word) (k : TrapKind) (a : Option Word) : (s.takeTrap p k a).idEx = s.idEx := by cases a <;> rfl
@[simp] theorem State.takeTrap_exMem (s : State) (p : Word) (k : TrapKind) (a : Option Word) : (s.takeTrap p k a).exMem = s.exMem := by cases a <;> rfl
@[simp] theorem State.takeTrap_memWb (s : State) (p : Word) (k : TrapKind) (a : Option Word) : (s.takeTrap p k a).memWb = s.memWb := by cases a <;> rfl
@[simp] theorem State.takeTrap_pendingRedirect (s : State) (p : Word) (k : TrapKind) (a : Option Word) : (s.takeTrap p k a).pendingRedirect = s.pendingRedirect := by cases a <;> rfl
@[simp] theorem State.takeTrap_exDelaySlot (s : State) (p : Word) (k : TrapKind) (a : Option Word) : (s.takeTrap p k a).exDelaySlot = s.exDelaySlot := by cases a <;> rfl
@[simp] theorem State.takeTrap_cycles (s : State) (p : Word) (k : TrapKind) (a : Option Word) : (s.takeTrap p k a).cycles = s.cycles := by cases a <;> rfl
@[simp] theorem State.takeTrap_draws (s : State) (p : Word) (k : TrapKind) (a : Option Word) : (s.takeTrap p k a).draws = s.draws := by cases a <;> rfl
@[simp] theorem State.takeTrap_symbols (s : State) (p : Word) (k : TrapKind) (a : Option Word) : (s.takeTrap p k a).symbols = s.symbols := by cases a <;> rfl

/-! `State.stageTrap`. -/

@[simp] theorem State.stageTrap_cfg (s : State) (b : List Notification) (p : Word) (k : TrapKind) (a : Option Word) : (s.stageTrap b p k a).cfg = s.cfg := by cases a <;> rfl
@[simp] theorem State.stageTrap_gpr (s : State) (b : List Notification) (p : Word) (k : TrapKind) (a : Option Word) : (s.stageTrap b p k a).gpr = s.gpr := by cases a <;> rfl
@[simp] theorem State.stageTrap_hi (s : State) (b : List Notification) (p : Word) (k : TrapKind) (a : Option Word) : (s.stageTrap b p k a).hi = s.hi := by cases a <;> rfl
@[simp] theorem State.stageTrap_lo (s : State) (b : List Notification) (p : Word) (k : TrapKind) (a : Option Word) : (s.stageTrap b p k a).lo = s.lo := by cases a <;> rfl
@[simp] theorem State.stageTrap_cp0Status (s : State) (b : List Notification) (p : Word) (k : TrapKind) (a : Option Word) : (s.stageTrap b p k a).cp0Status = s.cp0Status := by cases a <;> rfl
@[simp] theorem State.stageTrap_mem (s : State) (b : List Notification) (p : Word) (k : TrapKind) (a : Option Word) : (s.stageTrap b p k a).mem = s.mem := by cases a <;> rfl
@[simp] theorem State.stageTrap_iCache (s : State) (b : List Notification) (p : Word) (k : TrapKind) (a : Option Word) : (s.stageTrap b p k a).iCache = s.iCache := by cases a <;> rfl
@[simp] theorem State.stageTrap_dCache (s : State) (b : List Notification) (p : Word) (k : TrapKind) (a : Option Word) : (s.stageTrap b p k a).dCache = s.dCache := by cases a <;> rfl
@[simp] theorem State.stageTrap_pendingTarget (s : State) (b : List Notification) (p : Word) (k : TrapKind) (a : Option Word) : (s.stageTrap b p k a).pendingTarget = s.pendingTarget := by cases a <;> rfl
@[simp] theorem State.stageTrap_ifId (s : State) (b : List Notification) (p : Word) (k : TrapKind) (a : Option Word) : (s.stageTrap b p k a).ifId = s.ifId := by cases a <;> rfl
@[simp] theorem State.stageTrap_idEx (s : State) (b : List Notification) (p : Word) (k : TrapKind) (a : Option Word) : (s.stageTrap b p k a).idEx = s.idEx := by cases a <;> rfl
@[simp] theorem State.stageTrap_exMem (s : State) (b : List Notification) (p : Word) (k : TrapKind) (a : Option Word) : (s.stageTrap b p k a).exMem = s.exMem := by cases a <;> rfl
@[simp] theorem State.stageTrap_memWb (s : State) (b : List Notification) (p : Word) (k : TrapKind) (a : Option Word) : (s.stageTrap b p k a).memWb = s.memWb := by cases a <;> rfl
@[simp] theorem State.stageTrap_pendingRedirect (s : State) (b : List Notification) (p : Word) (k : TrapKind) (a : Option Word) : (s.stageTrap b p k a).pendingRedirect = s.pendingRedirect := by cases a <;> rfl
@[simp] theorem State.stageTrap_exDelaySlot (s : State) (b : List Notification) (p : Word) (k : TrapKind) (a : Option Word) : (s.stageTrap b p k a).exDelaySlot = s.exDelaySlot := by cases a <;> rfl
@[simp] theorem State.stageTrap_cycles (s : State) (b : List Notification) (p : Word) (k : TrapKind) (a : Option Word) : (s.stageTrap b p k a).cycles = s.cycles := by cases a <;> rfl
@[simp] theorem State.stageTrap_draws (s : State) (b : List Notification) (p : Word) (k : TrapKind) (a : Option Word) : (s.stageTrap b p k a).draws = s.draws := by cases a <;> rfl
@[simp] theorem State.stageTrap_symbols (s : State) (b : List Notification) (p : Word) (k : TrapKind) (a : Option Word) : (s.stageTrap b p k a).symbols = s.symbols := by cases a <;> rfl

/-! `State.halt`. -/

@[simp] theorem State.halt_cfg (s : State) : (s.halt).cfg = s.cfg := rfl
@[simp] theorem State.halt_gpr (s : State) : (s.halt).gpr = s.gpr := rfl
@[simp] theorem State.halt_pc (s : State) : (s.halt).pc = s.pc := rfl
@[simp] theorem State.halt_hi (s : State) : (s.halt).hi = s.hi := rfl
@[simp] theorem State.halt_lo (s : State) : (s.halt).lo = s.lo := rfl
@[simp] theorem State.halt_badVAddr (s : State) : (s.halt).badVAddr = s.badVAddr := rfl
@[simp] theorem State.halt_cp0Status (s : State) : (s.halt).cp0Status = s.cp0Status := rfl
@[simp] theorem State.halt_cause (s : State) : (s.halt).cause = s.cause := rfl
@[simp] theorem State.halt_epc (s : State) : (s.halt).epc = s.epc := rfl
@[simp] theorem State.halt_mem (s : State) : (s.halt).mem = s.mem := rfl
@[simp] theorem State.halt_iCache (s : State) : (s.halt).iCache = s.iCache := rfl
@[simp] theorem State.halt_dCache (s : State) : (s.halt).dCache = s.dCache := rfl
@[simp] theorem State.halt_pendingTarget (s : State) : (s.halt).pendingTarget = s.pendingTarget := rfl
@[simp] theorem State.halt_ifId (s : State) : (s.halt).ifId = s.ifId := rfl
@[simp] theorem State.halt_idEx (s : State) : (s.halt).idEx = s.idEx := rfl
@[simp] theorem State.halt_exMem (s : State) : (s.halt).exMem = s.exMem := rfl
@[simp] theorem State.halt_memWb (s : State) : (s.halt).memWb = s.memWb := rfl
@[simp] theorem State.halt_pendingRedirect (s : State) : (s.halt).pendingRedirect = s.pendingRedirect := rfl
@[simp] theorem State.halt_exDelaySlot (s : State) : (s.halt).exDelaySlot = s.exDelaySlot := rfl
@[simp] theorem State.halt_cycles (s : State) : (s.halt).cycles = s.cycles := rfl
@[simp] theorem State.halt_events (s : State) : (s.halt).events = s.events := rfl
@[simp] theorem State.halt_draws (s : State) : (s.halt).draws = s.draws := rfl
@[simp] theorem State.halt_symbols (s : State) : (s.halt).symbols = s.symbols := rfl

/-! `State.beginCycle`. -/

@[simp] theorem State.beginCycle_cfg (s : State) : (s.beginCycle).cfg = s.cfg := rfl
@[simp] theorem State.beginCycle_gpr (s : State) : (s.beginCycle).gpr = s.gpr := rfl
@[simp] theorem State.beginCycle_pc (s : State) : (s.beginCycle).pc = s.pc := rfl
@[simp] theorem State.beginCycle_hi (s : State) : (s.beginCycle).hi = s.hi := rfl
@[simp] theorem State.beginCycle_lo (s : State) : (s.beginCycle).lo = s.lo := rfl
@[simp] theorem State.beginCycle_badVAddr (s : State) : (s.beginCycle).badVAddr = s.badVAddr := rfl
@[simp] theorem State.beginCycle_cp0Status (s : State) : (s.beginCycle).cp0Status = s.cp0Status := rfl
@[simp] theorem State.beginCycle_cause (s : State) : (s.beginCycle).cause = s.cause := rfl
@[simp] theorem State.beginCycle_epc (s : State) : (s.beginCycle).epc = s.epc := rfl
@[simp] theorem State.beginCycle_mem (s : State) : (s.beginCycle).mem = s.mem := rfl
@[simp] theorem State.beginCycle_iCache (s : State) : (s.beginCycle).iCache = s.iCache := rfl
@[simp] theorem State.beginCycle_dCache (s : State) : (s.beginCycle).dCache = s.dCache := rfl
@[simp] theorem State.beginCycle_pendingTarget (s : State) : (s.beginCycle).pendingTarget = s.pendingTarget := rfl
@[simp] theorem State.beginCycle_ifId (s : State) : (s.beginCycle).ifId = s.ifId := rfl
@[simp] theorem State.beginCycle_idEx (s : State) : (s.beginCycle).idEx = s.idEx := rfl
@[simp] theorem State.beginCycle_exMem (s : State) : (s.beginCycle).exMem = s.exMem := rfl
@[simp] theorem State.beginCycle_memWb (s : State) : (s.beginCycle).memWb = s.memWb := rfl
@[simp] theorem State.beginCycle_pendingRedirect (s : State) : (s.beginCycle).pendingRedirect = s.pendingRedirect := rfl
@[simp] theorem State.beginCycle_exDelaySlot (s : State) : (s.beginCycle).exDelaySlot = s.exDelaySlot := rfl
@[simp] theorem State.beginCycle_run (s : State) : (s.beginCycle).run = s.run := rfl
@[simp] theorem State.beginCycle_draws (s : State) : (s.beginCycle).draws = s.draws := rfl
@[simp] theorem State.beginCycle_symbols (s : State) : (s.beginCycle).symbols = s.symbols := rfl

/-! `State.applySpecial`. -/

@[simp] theorem State.applySpecial_cfg (s : State) (e : Effects) : (s.applySpecial e).cfg = s.cfg := by
  obtain ⟨_, _, hi, lo, cp0, _, drew⟩ := e
  cases hi <;> cases lo <;> cases cp0 <;> cases drew <;> simp [State.applySpecial]
@[simp] theorem State.applySpecial_gpr (s : State) (e : Effects) : (s.applySpecial e).gpr = s.gpr := by
  obtain ⟨_, _, hi, lo, cp0, _, drew⟩ := e
  cases hi <;> cases lo <;> cases cp0 <;> cases drew <;> simp [State.applySpecial]
@[simp] theorem State.applySpecial_pc (s : State) (e : Effects) : (s.applySpecial e).pc = s.pc := by
  obtain ⟨_, _, hi, lo, cp0, _, drew⟩ := e
  cases hi <;> cases lo <;> cases cp0 <;> cases drew <;> simp [State.applySpecial]
@[simp] theorem State.applySpecial_mem (s : State) (e : Effects) : (s.applySpecial e).mem = s.mem := by
  obtain ⟨_, _, hi, lo, cp0, _, drew⟩ := e
  cases hi <;> cases lo <;> cases cp0 <;> cases drew <;> simp [State.applySpecial]
@[simp] theorem State.applySpecial_iCache (s : State) (e : Effects) : (s.applySpecial e).iCache = s.iCache := by
  obtain ⟨_, _, hi, lo, cp0, _, drew⟩ := e
  cases hi <;> cases lo <;> cases cp0 <;> cases drew <;> simp [State.applySpecial]
@[simp] theorem State.applySpecial_dCache (s : State) (e : Effects) : (s.applySpecial e).dCache = s.dCache := by
  obtain ⟨_, _, hi, lo, cp0, _, drew⟩ := e
  cases hi <;> cases lo <;> cases cp0 <;> cases drew <;> simp [State.applySpecial]
@[simp] theorem State.applySpecial_pendingTarget (s : State) (e : Effects) : (s.applySpecial e).pendingTarget = s.pendingTarget := by
  obtain ⟨_, _, hi, lo, cp0, _, drew⟩ := e
  cases hi <;> cases lo <;> cases cp0 <;> cases drew <;> simp [State.applySpecial]
@[simp] theorem State.applySpecial_ifId (s : State) (e : Effects) : (s.applySpecial e).ifId = s.ifId := by
  obtain ⟨_, _, hi, lo, cp0, _, drew⟩ := e
  cases hi <;> cases lo <;> cases cp0 <;> cases drew <;> simp [State.applySpecial]
@[simp] theorem State.applySpecial_idEx (s : State) (e : Effects) : (s.applySpecial e).idEx = s.idEx := by
  obtain ⟨_, _, hi, lo, cp0, _, drew⟩ := e
  cases hi <;> cases lo <;> cases cp0 <;> cases drew <;> simp [State.applySpecial]
@[simp] theorem State.applySpecial_exMem (s : State) (e : Effects) : (s.applySpecial e).exMem = s.exMem := by
  obtain ⟨_, _, hi, lo, cp0, _, drew⟩ := e
  cases hi <;> cases lo <;> cases cp0 <;> cases drew <;> simp [State.applySpecial]
@[simp] theorem State.applySpecial_memWb (s : State) (e : Effects) : (s.applySpecial e).memWb = s.memWb := by
  obtain ⟨_, _, hi, lo, cp0, _, drew⟩ := e
  cases hi <;> cases lo <;> cases cp0 <;> cases drew <;> simp [State.applySpecial]
@[simp] theorem State.applySpecial_pendingRedirect (s : State) (e : Effects) : (s.applySpecial e).pendingRedirect = s.pendingRedirect := by
  obtain ⟨_, _, hi, lo, cp0, _, drew⟩ := e
  cases hi <;> cases lo <;> cases cp0 <;> cases drew <;> simp [State.applySpecial]
@[simp] theorem State.applySpecial_exDelaySlot (s : State) (e : Effects) : (s.applySpecial e).exDelaySlot = s.exDelaySlot := by
  obtain ⟨_, _, hi, lo, cp0, _, drew⟩ := e
  cases hi <;> cases lo <;> cases cp0 <;> cases drew <;> simp [State.applySpecial]
@[simp] theorem State.applySpecial_run (s : State) (e : Effects) : (s.applySpecial e).run = s.run := by
  obtain ⟨_, _, hi, lo, cp0, _, drew⟩ := e
  cases hi <;> cases lo <;> cases cp0 <;> cases drew <;> simp [State.applySpecial]
@[simp] theorem State.applySpecial_cycles (s : State) (e : Effects) : (s.applySpecial e).cycles = s.cycles := by
  obtain ⟨_, _, hi, lo, cp0, _, drew⟩ := e
  cases hi <;> cases lo <;> cases cp0 <;> cases drew <;> simp [State.applySpecial]
@[simp] theorem State.applySpecial_symbols (s : State) (e : Effects) : (s.applySpecial e).symbols = s.symbols := by
  obtain ⟨_, _, hi, lo, cp0, _, drew⟩ := e
  cases hi <;> cases lo <;> cases cp0 <;> cases drew <;> simp [State.applySpecial]

/-! `State.updatePc`. -/

@[simp] theorem State.updatePc_cfg (s : State) (t : Option Word) : (s.updatePc t).cfg = s.cfg := by unfold State.updatePc; split <;> rfl
@[simp] theorem State.updatePc_gpr (s : State) (t : Option Word) : (s.updatePc t).gpr = s.gpr := by unfold State.updatePc; split <;> rfl
@[simp] theorem State.updatePc_hi (s : State) (t : Option Word) : (s.updatePc t).hi = s.hi := by unfold State.updatePc; split <;> rfl
@[simp] theorem State.updatePc_lo (s : State) (t : Option Word) : (s.updatePc t).lo = s.lo := by unfold State.updatePc; split <;> rfl
@[simp] theorem State.updatePc_badVAddr (s : State) (t : Option Word) : (s.updatePc t).badVAddr = s.badVAddr := by unfold State.updatePc; split <;> rfl
@[simp] theorem State.updatePc_cp0Status (s : State) (t : Option Word) : (s.updatePc t).cp0Status = s.cp0Status := by unfold State.updatePc; split <;> rfl
@[simp] theorem State.updatePc_cause (s : State) (t : Option Word) : (s.updatePc t).cause = s.cause := by unfold State.updatePc; split <;> rfl
@[simp] theorem State.updatePc_epc (s : State) (t : Option Word) : (s.updatePc t).epc = s.epc := by unfold State.updatePc; split <;> rfl
@[simp] theorem State.updatePc_mem (s : State) (t : Option Word) : (s.updatePc t).mem = s.mem := by unfold State.updatePc; split <;> rfl
@[simp] theorem State.updatePc_iCache (s : State) (t : Option Word) : (s.updatePc t).iCache = s.iCache := by unfold State.updatePc; split <;> rfl
@[simp] theorem State.updatePc_dCache (s : State) (t : Option Word) : (s.updatePc t).dCache = s.dCache := by unfold State.updatePc; split <;> rfl
@[simp] theorem State.updatePc_ifId (s : State) (t : Option Word) : (s.updatePc t).ifId = s.ifId := by unfold State.updatePc; split <;> rfl
@[simp] theorem State.updatePc_idEx (s : State) (t : Option Word) : (s.updatePc t).idEx = s.idEx := by unfold State.updatePc; split <;> rfl
@[simp] theorem State.updatePc_exMem (s : State) (t : Option Word) : (s.updatePc t).exMem = s.exMem := by unfold State.updatePc; split <;> rfl
@[simp] theorem State.updatePc_memWb (s : State) (t : Option Word) : (s.updatePc t).memWb = s.memWb := by unfold State.updatePc; split <;> rfl
@[simp] theorem State.updatePc_pendingRedirect (s : State) (t : Option Word) : (s.updatePc t).pendingRedirect = s.pendingRedirect := by unfold State.updatePc; split <;> rfl
@[simp] theorem State.updatePc_exDelaySlot (s : State) (t : Option Word) : (s.updatePc t).exDelaySlot = s.exDelaySlot := by unfold State.updatePc; split <;> rfl
@[simp] theorem State.updatePc_run (s : State) (t : Option Word) : (s.updatePc t).run = s.run := by unfold State.updatePc; split <;> rfl
@[simp] theorem State.updatePc_cycles (s : State) (t : Option Word) : (s.updatePc t).cycles = s.cycles := by unfold State.updatePc; split <;> rfl
@[simp] theorem State.updatePc_draws (s : State) (t : Option Word) : (s.updatePc t).draws = s.draws := by unfold State.updatePc; split <;> rfl
@[simp] theorem State.updatePc_symbols (s : State) (t : Option Word) : (s.updatePc t).symbols = s.symbols := by unfold State.updatePc; split <;> rfl

/-! `State.backendWrite`. -/

@[simp] theorem State.backendWrite_cfg (s : State) (src : AccessSource) (r : Range) (a v : Word) (n : Width) : (s.backendWrite src r a v n).cfg = s.cfg := by unfold State.backendWrite; cases r.backend <;> rfl
@[simp] theorem State.backendWrite_gpr (s : State) (src : AccessSource) (r : Range) (a v : Word) (n : Width) : (s.backendWrite src r a v n).gpr = s.gpr := by unfold State.backendWrite; cases r.backend <;> rfl
@[simp] theorem State.backendWrite_pc (s : State) (src : AccessSource) (r : Range) (a v : Word) (n : Width) : (s.backendWrite src r a v n).pc = s.pc := by unfold State.backendWrite; cases r.backend <;> rfl
@[simp] theorem State.backendWrite_hi (s : State) (src : AccessSource) (r : Range) (a v : Word) (n : Width) : (s.backendWrite src r a v n).hi = s.hi := by unfold State.backendWrite; cases r.backend <;> rfl
@[simp] theorem State.backendWrite_lo (s : State) (src : AccessSource) (r : Range) (a v : Word) (n : Width) : (s.backendWrite src r a v n).lo = s.lo := by unfold State.backendWrite; cases r.backend <;> rfl
@[simp] theorem State.backendWrite_badVAddr (s : State) (src : AccessSource) (r : Range) (a v : Word) (n : Width) : (s.backendWrite src r a v n).badVAddr = s.badVAddr := by unfold State.backendWrite; cases r.backend <;> rfl
@[simp] theorem State.backendWrite_cp0Status (s : State) (src : AccessSource) (r : Range) (a v : Word) (n : Width) : (s.backendWrite src r a v n).cp0Status = s.cp0Status := by unfold State.backendWrite; cases r.backend <;> rfl
@[simp] theorem State.backendWrite_cause (s : State) (src : AccessSource) (r : Range) (a v : Word) (n : Width) : (s.backendWrite src r a v n).cause = s.cause := by unfold State.backendWrite; cases r.backend <;> rfl
@[simp] theorem State.backendWrite_epc (s : State) (src : AccessSource) (r : Range) (a v : Word) (n : Width) : (s.backendWrite src r a v n).epc = s.epc := by unfold State.backendWrite; cases r.backend <;> rfl
@[simp] theorem State.backendWrite_iCache (s : State) (src : AccessSource) (r : Range) (a v : Word) (n : Width) : (s.backendWrite src r a v n).iCache = s.iCache := by unfold State.backendWrite; cases r.backend <;> rfl
@[simp] theorem State.backendWrite_dCache (s : State) (src : AccessSource) (r : Range) (a v : Word) (n : Width) : (s.backendWrite src r a v n).dCache = s.dCache := by unfold State.backendWrite; cases r.backend <;> rfl
@[simp] theorem State.backendWrite_pendingTarget (s : State) (src : AccessSource) (r : Range) (a v : Word) (n : Width) : (s.backendWrite src r a v n).pendingTarget = s.pendingTarget := by unfold State.backendWrite; cases r.backend <;> rfl
@[simp] theorem State.backendWrite_ifId (s : State) (src : AccessSource) (r : Range) (a v : Word) (n : Width) : (s.backendWrite src r a v n).ifId = s.ifId := by unfold State.backendWrite; cases r.backend <;> rfl
@[simp] theorem State.backendWrite_idEx (s : State) (src : AccessSource) (r : Range) (a v : Word) (n : Width) : (s.backendWrite src r a v n).idEx = s.idEx := by unfold State.backendWrite; cases r.backend <;> rfl
@[simp] theorem State.backendWrite_exMem (s : State) (src : AccessSource) (r : Range) (a v : Word) (n : Width) : (s.backendWrite src r a v n).exMem = s.exMem := by unfold State.backendWrite; cases r.backend <;> rfl
@[simp] theorem State.backendWrite_memWb (s : State) (src : AccessSource) (r : Range) (a v : Word) (n : Width) : (s.backendWrite src r a v n).memWb = s.memWb := by unfold State.backendWrite; cases r.backend <;> rfl
@[simp] theorem State.backendWrite_pendingRedirect (s : State) (src : AccessSource) (r : Range) (a v : Word) (n : Width) : (s.backendWrite src r a v n).pendingRedirect = s.pendingRedirect := by unfold State.backendWrite; cases r.backend <;> rfl
@[simp] theorem State.backendWrite_exDelaySlot (s : State) (src : AccessSource) (r : Range) (a v : Word) (n : Width) : (s.backendWrite src r a v n).exDelaySlot = s.exDelaySlot := by unfold State.backendWrite; cases r.backend <;> rfl
@[simp] theorem State.backendWrite_run (s : State) (src : AccessSource) (r : Range) (a v : Word) (n : Width) : (s.backendWrite src r a v n).run = s.run := by unfold State.backendWrite; cases r.backend <;> rfl
@[simp] theorem State.backendWrite_cycles (s : State) (src : AccessSource) (r : Range) (a v : Word) (n : Width) : (s.backendWrite src r a v n).cycles = s.cycles := by unfold State.backendWrite; cases r.backend <;> rfl
@[simp] theorem State.backendWrite_events (s : State) (src : AccessSource) (r : Range) (a v : Word) (n : Width) : (s.backendWrite src r a v n).events = s.events := by unfold State.backendWrite; cases r.backend <;> rfl
@[simp] theorem State.backendWrite_draws (s : State) (src : AccessSource) (r : Range) (a v : Word) (n : Width) : (s.backendWrite src r a v n).draws = s.draws := by unfold State.backendWrite; cases r.backend <;> rfl
@[simp] theorem State.backendWrite_symbols (s : State) (src : AccessSource) (r : Range) (a v : Word) (n : Width) : (s.backendWrite src r a v n).symbols = s.symbols := by unfold State.backendWrite; cases r.backend <;> rfl

/-! `State.writeBack`. -/

@[simp] theorem State.writeBack_cfg (s : State) : (s.writeBack).cfg = s.cfg := by unfold State.writeBack; split <;> simp
@[simp] theorem State.writeBack_pc (s : State) : (s.writeBack).pc = s.pc := by unfold State.writeBack; split <;> simp
@[simp] theorem State.writeBack_hi (s : State) : (s.writeBack).hi = s.hi := by unfold State.writeBack; split <;> simp
@[simp] theorem State.writeBack_lo (s : State) : (s.writeBack).lo = s.lo := by unfold State.writeBack; split <;> simp
@[simp] theorem State.writeBack_badVAddr (s : State) : (s.writeBack).badVAddr = s.badVAddr := by unfold State.writeBack; split <;> simp
@[simp] theorem State.writeBack_cp0Status (s : State) : (s.writeBack).cp0Status = s.cp0Status := by unfold State.writeBack; split <;> simp
@[simp] theorem State.writeBack_cause (s : State) : (s.writeBack).cause = s.cause := by unfold State.writeBack; split <;> simp
@[simp] theorem State.writeBack_epc (s : State) : (s.writeBack).epc = s.epc := by unfold State.writeBack; split <;> simp
@[simp] theorem State.writeBack_mem (s : State) : (s.writeBack).mem = s.mem := by unfold State.writeBack; split <;> simp
@[simp] theorem State.writeBack_iCache (s : State) : (s.writeBack).iCache = s.iCache := by unfold State.writeBack; split <;> simp
@[simp] theorem State.writeBack_dCache (s : State) : (s.writeBack).dCache = s.dCache := by unfold State.writeBack; split <;> simp
@[simp] theorem State.writeBack_pendingTarget (s : State) : (s.writeBack).pendingTarget = s.pendingTarget := by unfold State.writeBack; split <;> simp
@[simp] theorem State.writeBack_ifId (s : State) : (s.writeBack).ifId = s.ifId := by unfold State.writeBack; split <;> simp
@[simp] theorem State.writeBack_idEx (s : State) : (s.writeBack).idEx = s.idEx := by unfold State.writeBack; split <;> simp
@[simp] theorem State.writeBack_exMem (s : State) : (s.writeBack).exMem = s.exMem := by unfold State.writeBack; split <;> simp
@[simp] theorem State.writeBack_memWb (s : State) : (s.writeBack).memWb = s.memWb := by unfold State.writeBack; split <;> simp
@[simp] theorem State.writeBack_pendingRedirect (s : State) : (s.writeBack).pendingRedirect = s.pendingRedirect := by unfold State.writeBack; split <;> simp
@[simp] theorem State.writeBack_exDelaySlot (s : State) : (s.writeBack).exDelaySlot = s.exDelaySlot := by unfold State.writeBack; split <;> simp
@[simp] theorem State.writeBack_run (s : State) : (s.writeBack).run = s.run := by unfold State.writeBack; split <;> simp
@[simp] theorem State.writeBack_cycles (s : State) : (s.writeBack).cycles = s.cycles := by unfold State.writeBack; split <;> simp
@[simp] theorem State.writeBack_draws (s : State) : (s.writeBack).draws = s.draws := by unfold State.writeBack; split <;> simp
@[simp] theorem State.writeBack_symbols (s : State) : (s.writeBack).symbols = s.symbols := by unfold State.writeBack; split <;> simp

/-! `State.drain`. -/

@[simp] theorem State.drain_cfg (s : State) (l : Latch MemWbSlot) : (s.drain l).cfg = s.cfg := by cases l <;> simp [State.drain]
@[simp] theorem State.drain_pc (s : State) (l : Latch MemWbSlot) : (s.drain l).pc = s.pc := by cases l <;> simp [State.drain]
@[simp] theorem State.drain_hi (s : State) (l : Latch MemWbSlot) : (s.drain l).hi = s.hi := by cases l <;> simp [State.drain]
@[simp] theorem State.drain_lo (s : State) (l : Latch MemWbSlot) : (s.drain l).lo = s.lo := by cases l <;> simp [State.drain]
@[simp] theorem State.drain_badVAddr (s : State) (l : Latch MemWbSlot) : (s.drain l).badVAddr = s.badVAddr := by cases l <;> simp [State.drain]
@[simp] theorem State.drain_cp0Status (s : State) (l : Latch MemWbSlot) : (s.drain l).cp0Status = s.cp0Status := by cases l <;> simp [State.drain]
@[simp] theorem State.drain_cause (s : State) (l : Latch MemWbSlot) : (s.drain l).cause = s.cause := by cases l <;> simp [State.drain]
@[simp] theorem State.drain_epc (s : State) (l : Latch MemWbSlot) : (s.drain l).epc = s.epc := by cases l <;> simp [State.drain]
@[simp] theorem State.drain_mem (s : State) (l : Latch MemWbSlot) : (s.drain l).mem = s.mem := by cases l <;> simp [State.drain]
@[simp] theorem State.drain_iCache (s : State) (l : Latch MemWbSlot) : (s.drain l).iCache = s.iCache := by cases l <;> simp [State.drain]
@[simp] theorem State.drain_dCache (s : State) (l : Latch MemWbSlot) : (s.drain l).dCache = s.dCache := by cases l <;> simp [State.drain]
@[simp] theorem State.drain_pendingTarget (s : State) (l : Latch MemWbSlot) : (s.drain l).pendingTarget = s.pendingTarget := by cases l <;> simp [State.drain]
@[simp] theorem State.drain_ifId (s : State) (l : Latch MemWbSlot) : (s.drain l).ifId = s.ifId := by cases l <;> simp [State.drain]
@[simp] theorem State.drain_idEx (s : State) (l : Latch MemWbSlot) : (s.drain l).idEx = s.idEx := by cases l <;> simp [State.drain]
@[simp] theorem State.drain_exMem (s : State) (l : Latch MemWbSlot) : (s.drain l).exMem = s.exMem := by cases l <;> simp [State.drain]
@[simp] theorem State.drain_memWb (s : State) (l : Latch MemWbSlot) : (s.drain l).memWb = s.memWb := by cases l <;> simp [State.drain]
@[simp] theorem State.drain_pendingRedirect (s : State) (l : Latch MemWbSlot) : (s.drain l).pendingRedirect = s.pendingRedirect := by cases l <;> simp [State.drain]
@[simp] theorem State.drain_exDelaySlot (s : State) (l : Latch MemWbSlot) : (s.drain l).exDelaySlot = s.exDelaySlot := by cases l <;> simp [State.drain]
@[simp] theorem State.drain_run (s : State) (l : Latch MemWbSlot) : (s.drain l).run = s.run := by cases l <;> simp [State.drain]
@[simp] theorem State.drain_cycles (s : State) (l : Latch MemWbSlot) : (s.drain l).cycles = s.cycles := by cases l <;> simp [State.drain]
@[simp] theorem State.drain_draws (s : State) (l : Latch MemWbSlot) : (s.drain l).draws = s.draws := by cases l <;> simp [State.drain]
@[simp] theorem State.drain_symbols (s : State) (l : Latch MemWbSlot) : (s.drain l).symbols = s.symbols := by cases l <;> simp [State.drain]

end Sys2Proof.Machine
end

