-- ==== Sys2Proof/Laws/Ops.lean ====
section
/-! SUPPORT. What each shared operation can do, said once: registers read after a write (10_state.md R20, R21, R29), the accesses to
memory (20_memory.md R66 to R68), trap entry (60_exceptions.md R376), PC (50_core_single_cycle.md R303) and the commit of an
instruction (R301, R302). A proof cites these and does not unfold the operations. -/

namespace Sys2Proof.Machine

/-! Registers. -/

@[simp] theorem State.x_zero (s : State) : s.x 0#5 = 0#32 := by simp [State.x]

theorem State.x_congr {s t : State} (h : t.gpr = s.gpr) (q : Reg) : t.x q = s.x q := by simp [State.x, h]

/-- A general register after a write of one. -/
theorem State.x_setX (s : State) (r q : Reg) (v : Word) : (s.setX r v).x q = if q = r ∧ q ≠ 0#5 then v else s.x q := by
  by_cases hr : r = 0#5
  · subst hr
    rw [if_neg (by rintro ⟨rfl, h⟩; exact h rfl)]
    simp [State.setX]
  · by_cases hq : q = r
    · subst hq; simp [State.setX, State.x, hr]
    · rw [if_neg (fun h => hq h.1)]
      have hn : r.toNat ≠ q.toNat := fun h => hq (BitVec.eq_of_toNat_eq h.symm)
      simp only [State.setX, State.x, if_neg hr]
      split
      · rfl
      · exact Vector.getElem_set_ne _ _ hn

/-- A general register after a write that may have no register or no value. -/
theorem State.x_setDest (s : State) (dest : Option Reg) (v : Option Word) (q : Reg) :
    (s.setDest dest v).x q = if dest = some q ∧ q ≠ 0#5 then v.getD (s.x q) else s.x q := by
  cases dest with
  | none => simp [State.setDest]
  | some r =>
    cases v with
    | none => simp [State.setDest]
    | some w =>
      simp only [State.setDest, State.x_setX, Option.getD_some]
      by_cases h : q = r
      · subst h; simp
      · have h' : r ≠ q := fun e => h e.symm
        simp [h, h']

/-- Register 0 keeps its slot at 0. -/
theorem State.gpr_setX_zero {s : State} (h : s.gpr[0] = 0#32) (r : Reg) (v : Word) : (s.setX r v).gpr[0] = 0#32 := by
  simp only [State.setX]
  split
  · exact h
  · rename_i hr
    have hn : r.toNat ≠ 0 := fun e => hr (BitVec.eq_of_toNat_eq (by simpa using e))
    rw [Vector.getElem_set_ne _ _ hn]
    exact h

theorem State.gpr_setDest_zero {s : State} (h : s.gpr[0] = 0#32) (dest : Option Reg) (v : Option Word) :
    (s.setDest dest v).gpr[0] = 0#32 := by
  cases dest <;> cases v <;> first | exact h | exact State.gpr_setX_zero h _ _

/-- A Coprocessor 0 register after a write of one. -/
theorem State.cp0_setCp0 (s : State) (c d : Cp0Reg) (v : Word) : (s.setCp0 c v).cp0 d = if d = c then v else s.cp0 d := by
  cases c <;> cases d <;> rfl

theorem State.cp0_congr {s t : State} (h1 : t.badVAddr = s.badVAddr) (h2 : t.cp0Status = s.cp0Status) (h3 : t.cause = s.cause)
    (h4 : t.epc = s.epc) (c : Cp0Reg) : t.cp0 c = s.cp0 c := by
  cases c <;> simp [State.cp0, h1, h2, h3, h4]

@[simp] theorem State.cp0_setDest (s : State) (dest : Option Reg) (v : Option Word) (c : Cp0Reg) : (s.setDest dest v).cp0 c = s.cp0 c :=
  State.cp0_congr (by simp) (by simp) (by simp) (by simp) c

/-- The register a pair names is one of four. -/
theorem cp0Of_eq_some {rd : Reg} {sel : Sel} {c : Cp0Reg} :
    cp0Of rd sel = some c ↔
      sel = 0#3 ∧ ((rd = 8#5 ∧ c = .badVAddr) ∨ (rd = 12#5 ∧ c = .status) ∨ (rd = 13#5 ∧ c = .cause) ∨ (rd = 14#5 ∧ c = .epc)) := by
  unfold cp0Of
  constructor
  · intro h
    split at h
    · rename_i hs
      refine ⟨hs, ?_⟩
      split at h
      · rename_i e; cases h; exact .inl ⟨e, rfl⟩
      · split at h
        · rename_i e; cases h; exact .inr (.inl ⟨e, rfl⟩)
        · split at h
          · rename_i e; cases h; exact .inr (.inr (.inl ⟨e, rfl⟩))
          · split at h
            · rename_i e; cases h; exact .inr (.inr (.inr ⟨e, rfl⟩))
            · cases h
    · cases h
  · rintro ⟨rfl, ⟨rfl, rfl⟩ | ⟨rfl, rfl⟩ | ⟨rfl, rfl⟩ | ⟨rfl, rfl⟩⟩ <;> rfl

/-! Traps. -/

/-- Cause after a write of the code: the field holds the code, every other bit is kept. -/
theorem withExcCode_fields (cause : Word) (code : BitVec 5) :
    (withExcCode cause code).extractLsb' 2 5 = code ∧ (withExcCode cause code).extractLsb' 7 25 = cause.extractLsb' 7 25 ∧
    (withExcCode cause code).extractLsb' 0 2 = cause.extractLsb' 0 2 := by
  refine ⟨?_, ?_, ?_⟩ <;>
  · apply BitVec.eq_of_getLsbD_eq
    intro i hi
    simp only [withExcCode, BitVec.getLsbD_extractLsb', BitVec.getLsbD_append]
    interval_cases i <;> simp

/-- Trap entry: every field that it sets. -/
theorem State.takeTrap_fields (s : State) (pc : Word) (k : TrapKind) (a : Option Word) :
    (s.takeTrap pc k a).epc = pc ∧ (s.takeTrap pc k a).cause = causeAfter k s.cause ∧
    (s.takeTrap pc k a).badVAddr = a.getD s.badVAddr ∧ (s.takeTrap pc k a).cp0Status = s.cp0Status ∧
    (s.takeTrap pc k a).pc = pc ∧ (s.takeTrap pc k a).run = .trapped k := by
  cases a <;> exact ⟨rfl, rfl, rfl, rfl, rfl, rfl⟩

/-- Trap entry on the pipelined core is trap entry with the notifications in another order: `b`, the record, those so
far, PC. -/
theorem State.stageTrap_eq (s : State) (b : List Notification) (pc : Word) (k : TrapKind) (a : Option Word) :
    s.stageTrap b pc k a =
      { s.takeTrap pc k a with events := ({ s with events := b }.recordTrap pc k a).events ++ s.events ++ [.register ⟨.pc, 0, s.pc, pc⟩] } := by
  cases a <;> rfl

/-- Trap entry on the pipelined core: every field that it sets. -/
theorem State.stageTrap_fields (s : State) (b : List Notification) (pc : Word) (k : TrapKind) (a : Option Word) :
    (s.stageTrap b pc k a).epc = pc ∧ (s.stageTrap b pc k a).cause = causeAfter k s.cause ∧
    (s.stageTrap b pc k a).badVAddr = a.getD s.badVAddr ∧ (s.stageTrap b pc k a).cp0Status = s.cp0Status ∧
    (s.stageTrap b pc k a).pc = pc ∧ (s.stageTrap b pc k a).run = .trapped k := by
  cases a <;> exact ⟨rfl, rfl, rfl, rfl, rfl, rfl⟩

/-! Accesses to memory. -/

/-- A read of a peripheral by a core moves the draw counter alone. -/
@[simp] theorem State.periphRead_cpu (s : State) (device offset : Nat) (n : Width) :
    (s.periphRead .cpu device offset n).2 = { s with draws := s.draws + 1 } := rfl

/-- A write to a peripheral changes nothing. -/
@[simp] theorem State.periphWrite_eq (s : State) (src : AccessSource) (device offset : Nat) (n : Width) (v : Word) :
    s.periphWrite src device offset n v = s := rfl

/-- A probe of a peripheral changes nothing. -/
@[simp] theorem State.periphRead_probe (s : State) (device offset : Nat) (n : Width) : (s.periphRead .probe device offset n).2 = s := rfl

/-- A read of a peripheral range is a read of its device at the offset in the range. -/
theorem State.backendRead_peripheral (s : State) (src : AccessSource) (m : Memory) {r : Range} {device : Nat} (h : r.backend = .peripheral device)
    (a : Word) (n : Width) : s.backendRead src m r a n = s.periphRead src device (Range.offset r a) n := by
  simp only [State.backendRead, h]

/-- What a data read can do: it traps and nothing has changed, or it goes through the cache, or to RAM, or to a peripheral. -/
theorem State.memRead_cases (s : State) (a : Word) (n : Width) :
    (alignedTo a n = false ∧ s.memRead a n = .trap (.unalignedAccess .load) a) ∨
    (alignedTo a n = true ∧ rangeOf s.cfg a = none ∧ s.memRead a n = .trap (.busError .data) a) ∨
    (∃ r, alignedTo a n = true ∧ rangeOf s.cfg a = some r ∧
      ((s.cfg.dCache.enabled = true ∧ r.uncached = false ∧
          s.memRead a n = .ok (selectBytes (s.dCache.readWord s.cfg.dCache .data s.mem (wordBase a)).1 a n)
            { s with dCache := (s.dCache.readWord s.cfg.dCache .data s.mem (wordBase a)).2.1,
                     mem := (s.dCache.readWord s.cfg.dCache .data s.mem (wordBase a)).2.2 }) ∨
       ((s.cfg.dCache.enabled = false ∨ r.uncached = true) ∧ r.backend = .ram ∧ s.memRead a n = .ok (s.mem.read a n) s) ∨
       ((s.cfg.dCache.enabled = false ∨ r.uncached = true) ∧ (∃ d, r.backend = .peripheral d) ∧
          s.memRead a n = .ok (s.backendRead .cpu s.mem r a n).1 { s with draws := s.draws + 1 }))) := by
  cases ha : alignedTo a n with
  | false => exact .inl ⟨rfl, by simp [State.memRead, ha]⟩
  | true =>
    cases hr : rangeOf s.cfg a with
    | none => exact .inr (.inl ⟨rfl, rfl, by simp [State.memRead, ha, hr]⟩)
    | some r =>
      refine .inr (.inr ⟨r, rfl, rfl, ?_⟩)
      cases he : s.cfg.dCache.enabled with
      | false =>
        cases hb : r.backend with
        | ram => exact .inr (.inl ⟨.inl rfl, rfl, by simp [State.memRead, State.backendRead, ha, hr, he, hb]⟩)
        | peripheral d => exact .inr (.inr ⟨.inl rfl, ⟨d, rfl⟩, by simp [State.memRead, State.backendRead, ha, hr, he, hb]⟩)
      | true =>
        cases hu : r.uncached with
        | false => exact .inl ⟨rfl, rfl, by simp [State.memRead, ha, hr, he, hu]⟩
        | true =>
          cases hb : r.backend with
          | ram => exact .inr (.inl ⟨.inr rfl, rfl, by simp [State.memRead, State.backendRead, ha, hr, he, hu, hb]⟩)
          | peripheral d => exact .inr (.inr ⟨.inr rfl, ⟨d, rfl⟩, by simp [State.memRead, State.backendRead, ha, hr, he, hu, hb]⟩)

/-- What a data write can do: it traps and nothing has changed, or it goes through the cache, or to RAM, or to a peripheral. -/
theorem State.memWrite_cases (s : State) (a v : Word) (n : Width) :
    (alignedTo a n = false ∧ s.memWrite a v n = .trap (.unalignedAccess .store) a) ∨
    (alignedTo a n = true ∧ rangeOf s.cfg a = none ∧ s.memWrite a v n = .trap (.busError .data) a) ∨
    (∃ r, alignedTo a n = true ∧ rangeOf s.cfg a = some r ∧
      ((s.cfg.dCache.enabled = true ∧ r.uncached = false ∧
          s.memWrite a v n = .ok { s with dCache := (s.dCache.write s.cfg.dCache .data s.mem a v n).1,
                                          mem := (s.dCache.write s.cfg.dCache .data s.mem a v n).2 }) ∨
       ((s.cfg.dCache.enabled = false ∨ r.uncached = true) ∧ r.backend = .ram ∧
          s.memWrite a v n = .ok { s with mem := s.mem.write a v n }) ∨
       ((s.cfg.dCache.enabled = false ∨ r.uncached = true) ∧ (∃ d, r.backend = .peripheral d) ∧ s.memWrite a v n = .ok s))) := by
  cases ha : alignedTo a n with
  | false => exact .inl ⟨rfl, by simp [State.memWrite, ha]⟩
  | true =>
    cases hr : rangeOf s.cfg a with
    | none => exact .inr (.inl ⟨rfl, rfl, by simp [State.memWrite, ha, hr]⟩)
    | some r =>
      refine .inr (.inr ⟨r, rfl, rfl, ?_⟩)
      cases he : s.cfg.dCache.enabled with
      | false =>
        cases hb : r.backend with
        | ram => exact .inr (.inl ⟨.inl rfl, rfl, by simp [State.memWrite, State.backendWrite, ha, hr, he, hb]⟩)
        | peripheral d => exact .inr (.inr ⟨.inl rfl, ⟨d, rfl⟩, by simp [State.memWrite, State.backendWrite, ha, hr, he, hb]⟩)
      | true =>
        cases hu : r.uncached with
        | false => exact .inl ⟨rfl, rfl, by simp [State.memWrite, ha, hr, he, hu]⟩
        | true =>
          cases hb : r.backend with
          | ram => exact .inr (.inl ⟨.inr rfl, rfl, by simp [State.memWrite, State.backendWrite, ha, hr, he, hu, hb]⟩)
          | peripheral d => exact .inr (.inr ⟨.inr rfl, ⟨d, rfl⟩, by simp [State.memWrite, State.backendWrite, ha, hr, he, hu, hb]⟩)

/-- What a fetch can do. -/
theorem State.fetchWord_cases (s : State) (m : Memory) (a : Word) :
    (rangeOf s.cfg a = none ∧ s.fetchWord m a = .trap (.busError .fetch) a) ∨
    (∃ r, rangeOf s.cfg a = some r ∧
      ((s.cfg.iCache.enabled = true ∧ r.uncached = false ∧
          s.fetchWord m a = .ok (s.iCache.readWord s.cfg.iCache .instruction m a).1
            { s with iCache := (s.iCache.readWord s.cfg.iCache .instruction m a).2.1 }) ∨
       ((s.cfg.iCache.enabled = false ∨ r.uncached = true) ∧ r.backend = .ram ∧ s.fetchWord m a = .ok (m.word a) s) ∨
       ((s.cfg.iCache.enabled = false ∨ r.uncached = true) ∧ (∃ d, r.backend = .peripheral d) ∧
          s.fetchWord m a = .ok (s.backendRead .cpu m r a .word).1 { s with draws := s.draws + 1 }))) := by
  cases hr : rangeOf s.cfg a with
  | none => exact .inl ⟨rfl, by simp [State.fetchWord, hr]⟩
  | some r =>
    refine .inr ⟨r, rfl, ?_⟩
    cases he : s.cfg.iCache.enabled with
    | false =>
      cases hb : r.backend with
      | ram => exact .inr (.inl ⟨.inl rfl, rfl, by simp [State.fetchWord, State.backendRead, Memory.read, hr, he, hb]⟩)
      | peripheral d => exact .inr (.inr ⟨.inl rfl, ⟨d, rfl⟩, by simp [State.fetchWord, State.backendRead, hr, he, hb]⟩)
    | true =>
      cases hu : r.uncached with
      | false => exact .inl ⟨rfl, rfl, by simp [State.fetchWord, hr, he, hu]⟩
      | true =>
        cases hb : r.backend with
        | ram => exact .inr (.inl ⟨.inr rfl, rfl, by simp [State.fetchWord, State.backendRead, Memory.read, hr, he, hu, hb]⟩)
        | peripheral d => exact .inr (.inr ⟨.inr rfl, ⟨d, rfl⟩, by simp [State.fetchWord, State.backendRead, hr, he, hu, hb]⟩)

/-- A successful read leaves everything but the data cache, memory and the draw counter. -/
theorem State.memRead_ok {s s' : State} {a v : Word} {n : Width} (h : s.memRead a n = .ok v s') :
    ∃ k m d, s' = { s with dCache := k, mem := m, draws := d } := by
  rcases State.memRead_cases s a n with ⟨_, e⟩ | ⟨_, _, e⟩ | ⟨r, _, _, ⟨_, _, e⟩ | ⟨_, _, e⟩ | ⟨_, _, e⟩⟩ <;>
    rw [e] at h <;> cases h <;> exact ⟨_, _, _, rfl⟩

/-- A successful write leaves everything but the data cache and memory. -/
theorem State.memWrite_ok {s s' : State} {a v : Word} {n : Width} (h : s.memWrite a v n = .ok s') :
    ∃ k m, s' = { s with dCache := k, mem := m } := by
  rcases State.memWrite_cases s a v n with ⟨_, e⟩ | ⟨_, _, e⟩ | ⟨r, _, _, ⟨_, _, e⟩ | ⟨_, _, e⟩ | ⟨_, _, e⟩⟩ <;>
    rw [e] at h <;> cases h <;> exact ⟨_, _, rfl⟩

/-- A successful fetch leaves everything but the instruction cache and the draw counter. -/
theorem State.fetchWord_ok {s s' : State} {m : Memory} {a v : Word} (h : s.fetchWord m a = .ok v s') :
    ∃ k d, s' = { s with iCache := k, draws := d } := by
  rcases State.fetchWord_cases s m a with ⟨_, e⟩ | ⟨r, _, ⟨_, _, e⟩ | ⟨_, _, e⟩ | ⟨_, _, e⟩⟩ <;>
    rw [e] at h <;> cases h <;> exact ⟨_, _, rfl⟩

/-! Commit. -/

@[simp] theorem State.applySpecial_hi (s : State) (e : Effects) : (s.applySpecial e).hi = e.hi.getD s.hi := by
  unfold State.applySpecial
  cases e.hi <;> cases e.lo <;> rcases e.cp0 with _ | ⟨⟨⟩, _⟩ <;> cases e.drew <;> rfl

@[simp] theorem State.applySpecial_lo (s : State) (e : Effects) : (s.applySpecial e).lo = e.lo.getD s.lo := by
  unfold State.applySpecial
  cases e.hi <;> cases e.lo <;> rcases e.cp0 with _ | ⟨⟨⟩, _⟩ <;> cases e.drew <;> rfl

@[simp] theorem State.applySpecial_draws (s : State) (e : Effects) : (s.applySpecial e).draws = s.draws + if e.drew then 1 else 0 := by
  unfold State.applySpecial
  cases e.hi <;> cases e.lo <;> rcases e.cp0 with _ | ⟨⟨⟩, _⟩ <;> cases e.drew <;> rfl

/-- A Coprocessor 0 register after an instruction's special effects. -/
theorem State.cp0_applySpecial (s : State) (e : Effects) (c : Cp0Reg) :
    (s.applySpecial e).cp0 c = match e.cp0 with
      | some (d, v) => if c = d then v else s.cp0 c
      | none => s.cp0 c := by
  unfold State.applySpecial
  cases e.hi <;> cases e.lo <;> rcases e.cp0 with _ | ⟨⟨⟩, _⟩ <;> cases e.drew <;> cases c <;> rfl

/-- PC and the waiting target after an instruction. -/
theorem State.updatePc_fields (s : State) (target : Option Word) :
    (s.cfg.delaySlot = true → (s.updatePc target).pc = s.pendingTarget.getD (s.pc + 4#32) ∧
      (s.updatePc target).pendingTarget = target) ∧
    (s.cfg.delaySlot = false → (s.updatePc target).pc = target.getD (s.pc + 4#32) ∧
      (s.updatePc target).pendingTarget = s.pendingTarget) := by
  constructor <;> intro h <;> simp [State.updatePc, h]

/-- What the commit of an operation block can do. -/
theorem commit_cases (dest : Option Reg) (o : OpOut) (s : State) :
    (∃ k a, o = .trap k a ∧ commit dest o s = .next (s.takeTrap s.pc k a)) ∨
    (o = .halt ∧ commit dest o s = .next s.halt) ∨
    (∃ r, o = .refuse r ∧ commit dest o s = .refused r) ∨
    (∃ e, o = .done e ∧ e.memop = none ∧ commit dest o s = .next (((s.setDest dest e.result).applySpecial e).updatePc e.target)) ∨
    (∃ e a n sg, o = .done e ∧ e.memop = some (.load a n sg) ∧
      ((∃ k bad, s.memRead a n = .trap k bad ∧ commit dest o s = .next (s.takeTrap s.pc k (some bad))) ∨
       (∃ v s', s.memRead a n = .ok v s' ∧
          commit dest o s = .next (((s'.setDest dest (some (extendLoad n sg v))).applySpecial e).updatePc e.target)))) ∨
    (∃ e a n v, o = .done e ∧ e.memop = some (.store a n v) ∧
      ((∃ k bad, s.memWrite a v n = .trap k bad ∧ commit dest o s = .next (s.takeTrap s.pc k (some bad))) ∨
       (∃ s', s.memWrite a v n = .ok s' ∧
          commit dest o s = .next ((((s'.emit (.memory a n v)).setDest dest e.result).applySpecial e).updatePc e.target)))) := by
  cases o with
  | trap k a => exact .inl ⟨k, a, rfl, rfl⟩
  | halt => exact .inr (.inl ⟨rfl, rfl⟩)
  | refuse r => exact .inr (.inr (.inl ⟨r, rfl, rfl⟩))
  | done e =>
    cases hm : e.memop with
    | none => exact .inr (.inr (.inr (.inl ⟨e, rfl, hm, by simp only [commit, hm]⟩)))
    | some op =>
      cases op with
      | load a n sg =>
        refine .inr (.inr (.inr (.inr (.inl ⟨e, a, n, sg, rfl, hm, ?_⟩))))
        cases h : s.memRead a n with
        | trap k bad => exact .inl ⟨k, bad, rfl, by simp only [commit, hm, h]⟩
        | ok v s' => exact .inr ⟨v, s', rfl, by simp only [commit, hm, h]⟩
      | store a n v =>
        refine .inr (.inr (.inr (.inr (.inr ⟨e, a, n, v, rfl, hm, ?_⟩))))
        cases h : s.memWrite a v n with
        | trap k bad => exact .inl ⟨k, bad, rfl, by simp only [commit, hm, h]⟩
        | ok s' => exact .inr ⟨s', rfl, by simp only [commit, hm, h]⟩

end Sys2Proof.Machine
end

