-- ==== Sys2Proof/Laws/Commit.lean ====
section
/-! SUPPORT. What the commit of an operation block leaves (50_core_single_cycle.md R301 to R303), in the terms of Sys2Proof/Safety.lean: one
lemma for each shape of block. -/

namespace Sys2Proof.Machine

/-- PC after an instruction. -/
theorem pcMoved_of_updatePc {s t : State} (target : Option Word) (h1 : t.cfg = s.cfg) (h2 : t.pc = s.pc)
    (h3 : t.pendingTarget = s.pendingTarget) : PcMoved target s (t.updatePc target) := by
  obtain ⟨ha, hb⟩ := State.updatePc_fields t target
  rw [h1, h2, h3] at ha
  rw [h1, h2, h3] at hb
  unfold PcMoved
  cases hd : s.cfg.delaySlot with
  | true =>
    obtain ⟨h4, h5⟩ := ha hd
    rw [if_pos rfl]
    refine ⟨h5, ?_⟩
    cases hp : s.pendingTarget <;> simpa [hp] using h4
  | false =>
    obtain ⟨h4, h5⟩ := hb hd
    rw [if_neg (by decide)]
    refine ⟨h5, ?_⟩
    cases target <;> simpa using h4

/-- Memory, as it is and as the data side sees it, depends on memory, the data cache and the configuration. -/
theorem memoryKept_of_fields {s t : State} (h1 : t.mem = s.mem) (h2 : t.dCache = s.dCache) (h3 : t.cfg = s.cfg) (h4 : t.iCache = s.iCache) :
    MemoryKept s t := by
  refine ⟨fun a => by rw [h1], fun a => ?_, h4, h2⟩
  simp only [State.dataByte, h1, h2, h3]

theorem State.dataByte_congr {s t : State} (h1 : t.mem = s.mem) (h2 : t.dCache = s.dCache) (h3 : t.cfg = s.cfg) (a : Word) :
    t.dataByte a = s.dataByte a := by
  simp only [State.dataByte, h1, h2, h3]

/-- A block that yields a value for the destination register, and perhaps a target. -/
theorem commit_result (dest : Option Reg) (v : Word) (target : Option Word) (s : State) :
    ∃ t, commit dest (.done { result := some v, target := target }) s = .next t ∧ WritesRegister dest v target s t := by
  refine ⟨_, rfl, ?_, ⟨?_, ?_⟩, ?_, ?_, ?_, ?_, ?_⟩
  · intro q
    rw [State.x_congr (s := s.setDest dest (some v)) (by simp), State.x_setDest]
    rfl
  · simp
  · simp
  · intro c
    rw [State.cp0_congr (s := (s.setDest dest (some v)).applySpecial { result := some v, target := target }) (by simp) (by simp) (by simp) (by simp), State.cp0_applySpecial]
    simp
  · exact memoryKept_of_fields (by simp) (by simp) (by simp) (by simp)
  · simp [MachineKept]
  · exact pcMoved_of_updatePc target (by simp) (by simp) (by simp)
  · simp

/-- A block that yields nothing but perhaps a target. -/
theorem commit_target (target : Option Word) (s : State) :
    ∃ t, commit none (.done { target := target }) s = .next t ∧ WritesRegister none 0#32 target s t := by
  refine ⟨_, rfl, ?_, ⟨?_, ?_⟩, ?_, ?_, ?_, ?_, ?_⟩
  · intro q
    rw [State.x_congr (s := s) (by simp [State.setDest]), if_neg (by simp)]
  · simp
  · simp
  · intro c
    rw [State.cp0_congr (s := (s.setDest none none).applySpecial { target := target }) (by simp) (by simp) (by simp) (by simp), State.cp0_applySpecial]
    simp
  · exact memoryKept_of_fields (by simp) (by simp) (by simp) (by simp)
  · simp [MachineKept]
  · exact pcMoved_of_updatePc target (by simp) (by simp) (by simp)
  · simp

/-- A block that writes HI or LO. -/
theorem commit_hiLo (hi lo : Option Word) (drew : Bool) (s : State) :
    ∃ t, commit none (.done { hi := hi, lo := lo, drew := drew }) s = .next t ∧ WritesHiLo (hi.getD s.hi) (lo.getD s.lo) s t ∧
      t.draws = s.draws + if drew then 1 else 0 := by
  refine ⟨_, rfl, ⟨?_, ?_, ?_, ?_, ?_, ?_, ?_⟩, ?_⟩
  · simp
  · simp
  · intro q
    rw [if_neg (by simp)]
    exact State.x_congr (by simp [State.setDest]) q
  · intro c
    rw [State.cp0_congr (s := (s.setDest none none).applySpecial { hi := hi, lo := lo, drew := drew }) (by simp) (by simp) (by simp)
      (by simp), State.cp0_applySpecial]
    simp
  · exact memoryKept_of_fields (by simp) (by simp) (by simp) (by simp)
  · simp [MachineKept]
  · exact pcMoved_of_updatePc none (by simp) (by simp) (by simp)
  · simp

/-- A block that traps. -/
theorem commit_trap (dest : Option Reg) (k : TrapKind) (a : Option Word) (s : State) {code : BitVec 5} (hc : trapCode k = some code) :
    ∃ t, commit dest (.trap k a) s = .next t ∧ Traps k code a s t := by
  refine ⟨_, rfl, ?_⟩
  obtain ⟨h1, h2, h3, h4, h5, h6⟩ := State.takeTrap_fields s s.pc k a
  obtain ⟨c1, c2, c3⟩ := withExcCode_fields s.cause code
  have hcause : (s.takeTrap s.pc k a).cause = withExcCode s.cause code := by rw [h2]; simp [causeAfter, hc]
  refine ⟨⟨h1, by rw [hcause, c1], by rw [hcause, c2], by rw [hcause, c3], h3, h4, h5, h6⟩, ?_, ?_, ?_, ?_, ?_, ?_, ?_⟩
  · intro q
    rw [if_neg (by simp)]
    exact State.x_congr (by simp) q
  · exact ⟨by simp, by simp⟩
  · exact memoryKept_of_fields (by simp) (by simp) (by simp) (by simp)
  · simp
  · simp
  · simp
  · simp

end Sys2Proof.Machine
end

