-- ==== Sys2Proof/Laws/Data.lean ====
section
/-! SUPPORT. From a cache and a memory to the data side of a machine (20_memory.md R61, R62, 21_cache.md R101, R102): the range of an
address, the block of a cached address, and the byte that the data side sees. -/

namespace Sys2Proof.Machine

/-! Ranges. -/

theorem rangeIn_some {a : Word} {map : List Range} {r : Range} (h : rangeIn a map = some r) : r ∈ map ∧ Range.holds r a = true := by
  induction map with
  | nil => cases h
  | cons q rest ih =>
    simp only [rangeIn] at h
    split at h
    · rename_i hq
      cases h
      exact ⟨List.mem_cons_self, hq⟩
    · exact ⟨List.mem_cons_of_mem _ (ih h).1, (ih h).2⟩

theorem rangesApart_unique {map : List Range} (h : rangesApart map = true) {r q : Range} (hr : r ∈ map) (hq : q ∈ map) {n : Nat}
    (h1 : r.lo ≤ n ∧ n < r.hi) (h2 : q.lo ≤ n ∧ n < q.hi) : r = q := by
  induction map with
  | nil => cases hr
  | cons p rest ih =>
    simp only [rangesApart, Bool.and_eq_true, List.all_eq_true] at h
    rcases List.mem_cons.1 hr with rfl | hr'
    · rcases List.mem_cons.1 hq with rfl | hq'
      · rfl
      · have := h.1 q hq'
        simp only [Range.apart, Bool.or_eq_true, decide_eq_true_eq] at this
        omega
    · rcases List.mem_cons.1 hq with rfl | hq'
      · have := h.1 r hr'
        simp only [Range.apart, Bool.or_eq_true, decide_eq_true_eq] at this
        omega
      · exact ih h.2 hr' hq'

theorem Range.holds_iff {r : Range} {a : Word} : Range.holds r a = true ↔ r.lo ≤ a.toNat ∧ a.toNat < r.hi := by
  simp [Range.holds]

/-- The range of a well-formed map that holds an address is the range of the address. -/
theorem rangeOf_eq {g : Config} (hg : g.wellFormed = true) {r : Range} (hr : r ∈ g.map) {a : Word} (h : r.lo ≤ a.toNat ∧ a.toNat < r.hi) :
    rangeOf g a = some r := by
  have hap : rangesApart g.map = true := by
    simp only [Config.wellFormed, Bool.and_eq_true] at hg
    exact hg.1.1.2
  cases hq : rangeOf g a with
  | none =>
    exfalso
    unfold rangeOf at hq
    have : ∀ map : List Range, rangeIn a map = none → ∀ q ∈ map, Range.holds q a = false := by
      intro map
      induction map with
      | nil => intro _ q hq; cases hq
      | cons p rest ih =>
        intro hn q hq
        simp only [rangeIn] at hn
        split at hn
        · cases hn
        · rename_i hp
          rcases List.mem_cons.1 hq with rfl | hq
          · simpa using hp
          · exact ih hn q hq
    have h1 := this _ hq r hr
    rw [Range.holds_iff.2 h] at h1
    cases h1
  | some q =>
    obtain ⟨hq1, hq2⟩ := rangeIn_some hq
    rw [rangesApart_unique hap hr hq1 h (Range.holds_iff.1 hq2)]

/-- The geometry of an enabled cache. -/
theorem geometry_of_wellFormed {g : Config} (hg : g.wellFormed = true) :
    (g.iCache.enabled = true → 1 ≤ g.iCache.sets ∧ 1 ≤ g.iCache.words ∧ 1 ≤ g.iCache.ways) ∧
    (g.dCache.enabled = true → 1 ≤ g.dCache.sets ∧ 1 ≤ g.dCache.words ∧ 1 ≤ g.dCache.ways) := by
  simp only [Config.wellFormed, Bool.and_eq_true] at hg
  have h1 := hg.1.1.1.1.1.1.1
  have h2 := hg.1.1.1.1.1.1.2
  simp only [CacheCfg.geometryOk, Bool.or_eq_true, Bool.not_eq_true', Bool.and_eq_true, decide_eq_true_eq] at h1 h2
  constructor
  · intro he
    rcases h1 with h1 | h1
    · rw [h1] at he; cases he
    · exact ⟨h1.1.1, h1.1.2, h1.2⟩
  · intro he
    rcases h2 with h2 | h2
    · rw [h2] at he; cases he
    · exact ⟨h2.1.1, h2.1.2, h2.2⟩

/-- A block of an enabled cache that starts in a cached range lies in it. -/
theorem blockPlaced_of_range {g : Config} (hg : g.wellFormed = true) {c : CacheCfg} (hc : c = g.iCache ∨ c = g.dCache)
    (he : c.enabled = true) (hw : 1 ≤ c.words) {a : Word} {r : Range} (hr : rangeOf g a = some r) (hu : r.uncached = false) :
    blockPlaced g c (tagIndex c a) (setIndex c a) := by
  obtain ⟨hm, hh⟩ := rangeIn_some hr
  rw [Range.holds_iff] at hh
  refine ⟨r, hm, hu, ?_⟩
  have hb : r.lo % (4 * c.words) = 0 ∧ r.hi % (4 * c.words) = 0 := by
    simp only [Config.wellFormed, Bool.and_eq_true, List.all_eq_true] at hg
    have := hg.1.2 r hm
    simp only [Range.blocksOk, Bool.or_eq_true, Bool.not_eq_true', Bool.and_eq_true, decide_eq_true_eq] at this
    rcases hc with rfl | rfl
    · rcases this.1 with (h | h) | h
      · rw [hu] at h; cases h
      · rw [he] at h; cases h
      · exact h
    · rcases this.2 with (h | h) | h
      · rw [hu] at h; cases h
      · rw [he] at h; cases h
      · exact h
  rw [block_of_tag_set]
  have h1 := Nat.div_add_mod r.lo (4 * c.words)
  have h2 := Nat.div_add_mod r.hi (4 * c.words)
  rw [hb.1] at h1
  rw [hb.2] at h2
  have e : a.toNat / (4 * c.words) * c.words * 4 = 4 * c.words * (a.toNat / (4 * c.words)) := by ring
  have h3 := Nat.div_add_mod a.toNat (4 * c.words)
  have h4 := Nat.mod_lt a.toNat (show 4 * c.words > 0 by omega)
  constructor
  · have : r.lo / (4 * c.words) ≤ a.toNat / (4 * c.words) := Nat.div_le_div_right hh.1
    rw [e, ← h1]
    exact Nat.add_le_add (Nat.mul_le_mul_left _ this) (Nat.le_refl 0)
  · have : a.toNat / (4 * c.words) < r.hi / (4 * c.words) := by
      rw [Nat.div_lt_iff_lt_mul (by omega)]
      rw [Nat.mul_comm]
      omega
    have h5 : 4 * c.words * (a.toNat / (4 * c.words) + 1) ≤ 4 * c.words * (r.hi / (4 * c.words)) := Nat.mul_le_mul_left _ this
    rw [Nat.mul_add] at h5
    rw [e]
    omega

/-! The data side. -/

theorem State.dataByte_off {s : State} (h : s.cfg.dCache.enabled = false) (a : Word) : s.dataByte a = s.mem.byte a := by
  unfold State.dataByte
  split
  · rfl
  · simp [h]

/-- No line of an enabled cache holds an address that is in no cached range. -/
theorem no_line_of_uncached {g : Config} {c : CacheCfg} {k : Cache} (hg : g.wellFormed = true) (hpos : 1 ≤ c.words) (hL : LinesInv g c k)
    {a : Word} (hr : ∀ r, rangeOf g a = some r → r.uncached = true) (w : Nat) (hv : (k.line (setIndex c a) w).valid = true) :
    (k.line (setIndex c a) w).tag ≠ tagIndex c a := by
  intro ht
  obtain ⟨_, q, hq, hqu, hlo, hhi⟩ := hL.placed _ _ hv
  have hb := base_le c a hpos
  rw [← ht] at hb
  simp only [Line.base, blockBytes] at hlo hhi
  have := hr q (rangeOf_eq hg hq (by omega))
  rw [hqu] at this
  cases this

/-- With the data cache enabled the data side sees, at every address, what the cache over memory shows. -/
theorem State.dataByte_on {s : State} (hg : s.cfg.wellFormed = true) (h : s.cfg.dCache.enabled = true)
    (hL : LinesInv s.cfg s.cfg.dCache s.dCache) (a : Word) : s.dataByte a = s.dCache.seen s.cfg.dCache s.mem a := by
  have hn : (∀ r, rangeOf s.cfg a = some r → r.uncached = true) → s.dCache.seen s.cfg.dCache s.mem a = s.mem.byte a :=
    fun hr => Cache.seen_of_no_line _ (no_line_of_uncached hg ((geometry_of_wellFormed hg).2 h).2.1 hL hr)
  unfold State.dataByte
  split
  · rename_i hr
    exact (hn (fun r h => by rw [hr] at h; cases h)).symm
  · rename_i r hr
    cases hu : r.uncached with
    | true => simp only [Bool.not_true, Bool.and_false, Bool.false_eq_true, if_false]; exact (hn (fun q h => by rw [hr] at h; cases h; exact hu)).symm
    | false => simp only [h, Bool.not_false, Bool.and_self, if_true]; rfl

/-- A write of memory outside the cached ranges leaves a clean cache clean. -/
theorem CleanAgrees.uncachedWrite {g : Config} {c : CacheCfg} {k : Cache} {m : Memory} (hg : g.wellFormed = true) (hpos : 1 ≤ c.words)
    (hL : LinesInv g c k) (hm : m.wf = true) (hc : CleanAgrees c k m) {a : Word} {n : Width} (ha : alignedTo a n = true) (v : Word)
    (hr : ∀ r, rangeOf g a = some r → r.uncached = true) : CleanAgrees c k (m.write a v n) := by
  have haa : a.toNat % widthBytes n = 0 := by simpa [alignedTo] using ha
  intro s w hv hd
  rw [hc s w hv hd]
  have hb := Line.placed_bounds hg (hL.placed s w hv)
  obtain ⟨hs, _⟩ := Cache.valid_bounds hL.shaped hv
  have hbase : (lineBase c (k.line s w).tag s).toNat = ((k.line s w).tag * c.sets + s) * c.words * 4 := lineBase_toNat (by omega)
  symm
  apply Memory.readBurst_congr (by omega)
  intro b hb1 hb2
  rw [hbase] at hb1 hb2
  obtain ⟨ht2, hs2⟩ := tag_set_of_mem hs hb1 hb2
  rw [Memory.byte_write hm haa, if_neg]
  intro hx
  obtain ⟨e1, e2, _⟩ := same_word (c := c) (touched_word ha hx)
  subst hs2
  rw [e1] at hv ht2
  exact no_line_of_uncached hg hpos hL hr w hv (by rw [← e2, ht2])

/-! Bytes of an access. -/

/-- The word base of an address. -/
theorem wordBase_toNat (a : Word) : (wordBase a).toNat = a.toNat - a.toNat % 4 := by
  have e : wordBase a = (a >>> 2) <<< 2 := by
    unfold wordBase
    apply BitVec.eq_of_getLsbD_eq
    intro i hi
    interval_cases i <;> simp
  rw [e]
  simp only [BitVec.toNat_shiftLeft, BitVec.toNat_ushiftRight, Nat.shiftRight_eq_div_pow, Nat.shiftLeft_eq]
  have := a.isLt
  omega

/-- The two ways to name the byte that a store puts at an address it touches. -/
theorem storedByte_eq (v a b : Word) (n : Width) (h : touches a n b) : storedByte v a b n = touchByte a v n b := by
  obtain ⟨h1, h2⟩ := h
  unfold storedByte touchByte byteOfWord
  congr 1
  cases n <;> simp only [widthBytes] at * <;> omega

/-- The low bits that a store takes of its register are those its bytes show (R330 step 6). -/
theorem storedByte_storeValue (v a b : Word) (n : Width) (h : touches a n b) : storedByte (storeValue n v) a b n = storedByte v a b n := by
  obtain ⟨h1, h2⟩ := h
  have hj : b.toNat - a.toNat < widthBytes n := by omega
  unfold storedByte storeValue
  generalize b.toNat - a.toNat = j at hj
  apply BitVec.eq_of_getLsbD_eq
  intro i hi
  cases n <;> simp only [widthBytes] at hj ⊢ <;> interval_cases j <;> interval_cases i <;> simp

/-- The bytes that an aligned access selects from its word, by the word's bytes. -/
theorem selectBytes_eq (w a : Word) (n : Width) (ha : alignedTo a n = true) (f : Word → Byte)
    (h : ∀ b : Word, b.toNat / 4 = a.toNat / 4 → byteOfWord w (b.toNat % 4) = f b) :
    selectBytes w a n = match n with
    | .byte => (f a).setWidth 32
    | .half => (f a ++ f (a + 1#32)).setWidth 32
    | .word => f a ++ f (a + 1#32) ++ f (a + 2#32) ++ f (a + 3#32) := by
  have hl := a.isLt
  have haa : a.toNat % widthBytes n = 0 := by simpa [alignedTo] using ha
  have e (j : Nat) (hj : j < widthBytes n) : (a + BitVec.ofNat 32 j).toNat = a.toNat + j := by
    rw [BitVec.toNat_add, BitVec.toNat_ofNat]
    cases n <;> simp only [widthBytes] at * <;> omega
  have f0 : f a = byteOfWord w (a.toNat % 4) := (h a rfl).symm
  cases n with
  | byte => simp only [selectBytes, f0]
  | half =>
    simp only [widthBytes] at *
    have e1 := e 1 (by omega)
    have f1 : f (a + 1#32) = byteOfWord w (a.toNat % 4 + 1) := by
      rw [← h (a + 1#32) (by rw [e1]; omega), e1]; congr 1; omega
    simp only [selectBytes, f0, f1]
    congr 1
    have : a.toNat % 4 = 0 ∨ a.toNat % 4 = 2 := by omega
    rcases this with h0 | h0 <;> rw [h0]
    · rw [if_pos rfl]
      apply BitVec.eq_of_getLsbD_eq
      intro i hi
      simp only [byteOfWord, BitVec.getLsbD_append, BitVec.getLsbD_extractLsb']
      interval_cases i <;> simp
    · rw [if_neg (by omega)]
      apply BitVec.eq_of_getLsbD_eq
      intro i hi
      simp only [byteOfWord, BitVec.getLsbD_append, BitVec.getLsbD_extractLsb']
      interval_cases i <;> simp
  | word =>
    simp only [widthBytes] at *
    have h0 : a.toNat % 4 = 0 := haa
    have f1 : f (a + 1#32) = byteOfWord w 1 := by
      rw [← h (a + 1#32) (by rw [e 1 (by omega)]; omega), e 1 (by omega)]; congr 1; omega
    have f2 : f (a + 2#32) = byteOfWord w 2 := by
      rw [← h (a + 2#32) (by rw [e 2 (by omega)]; omega), e 2 (by omega)]; congr 1; omega
    have f3 : f (a + 3#32) = byteOfWord w 3 := by
      rw [← h (a + 3#32) (by rw [e 3 (by omega)]; omega), e 3 (by omega)]; congr 1; omega
    simp only [selectBytes, f0, f1, f2, f3, h0]
    exact (wordOfBytes_byteOfWord w).symm

end Sys2Proof.Machine
end

