-- ==== Sys2Proof/Laws/PerInstr.lean ====
section
/-! SUPPORT. One family of statements about each instruction as syntax: the word that `encode` gives it (30_encoding.md R152) is one of its own row
of the table (R149), whatever its fields hold, so no must-be-zero bit of the row is set (R150). -/

namespace Sys2Proof.Laws.RowMatches

/-- A field at its position does not touch the bits of a mask that no value of the field touches. -/
theorem fieldAt_and {n : Nat} (v : BitVec n) (pos : Nat) (mask : Word) (h : fieldAt (BitVec.allOnes n) pos &&& mask = 0#32) :
    fieldAt v pos &&& mask = 0#32 := by
  apply BitVec.eq_of_getLsbD_eq
  intro k hk
  have hb := congrArg (fun w : Word => w.getLsbD k) h
  simp only [fieldAt, BitVec.getLsbD_and, BitVec.getLsbD_shiftLeft, BitVec.getLsbD_setWidth, BitVec.getLsbD_allOnes,
    BitVec.getLsbD_zero] at hb ⊢
  by_cases hv : v.getLsbD (k - pos) = true
  · have hn := BitVec.lt_of_getLsbD hv
    simp only [hv, hn, decide_true] at hb ⊢
    exact hb
  · simp only [Bool.not_eq_true] at hv
    simp [hv]

/-- The word of an instruction is one of its own row of the table. -/
def Statement (i : Instr) : Prop := ∃ (k : Nat) (r : Row), opcodeTable[k]? = some r ∧ r.mnemonic = i.mnemonic ∧ r.hits (encode i) = true

theorem sll (rd rt : Reg) (shamt : BitVec 5) : Statement (.sll rd rt shamt) := by
  refine ⟨0, _, rfl, rfl, ?_⟩
  simp (disch := decide) only [Row.hits, encode, BitVec.and_or_distrib_right, fieldAt_and, BitVec.or_zero, decide_eq_true_eq]
  decide

theorem srl (rd rt : Reg) (shamt : BitVec 5) : Statement (.srl rd rt shamt) := by
  refine ⟨1, _, rfl, rfl, ?_⟩
  simp (disch := decide) only [Row.hits, encode, BitVec.and_or_distrib_right, fieldAt_and, BitVec.or_zero, decide_eq_true_eq]
  decide

theorem sra (rd rt : Reg) (shamt : BitVec 5) : Statement (.sra rd rt shamt) := by
  refine ⟨2, _, rfl, rfl, ?_⟩
  simp (disch := decide) only [Row.hits, encode, BitVec.and_or_distrib_right, fieldAt_and, BitVec.or_zero, decide_eq_true_eq]
  decide

theorem sllv (rd rt rs : Reg) : Statement (.sllv rd rt rs) := by
  refine ⟨3, _, rfl, rfl, ?_⟩
  simp (disch := decide) only [Row.hits, encode, BitVec.and_or_distrib_right, fieldAt_and, BitVec.or_zero, decide_eq_true_eq]
  decide

theorem srlv (rd rt rs : Reg) : Statement (.srlv rd rt rs) := by
  refine ⟨4, _, rfl, rfl, ?_⟩
  simp (disch := decide) only [Row.hits, encode, BitVec.and_or_distrib_right, fieldAt_and, BitVec.or_zero, decide_eq_true_eq]
  decide

theorem srav (rd rt rs : Reg) : Statement (.srav rd rt rs) := by
  refine ⟨5, _, rfl, rfl, ?_⟩
  simp (disch := decide) only [Row.hits, encode, BitVec.and_or_distrib_right, fieldAt_and, BitVec.or_zero, decide_eq_true_eq]
  decide

theorem jr (rs : Reg) : Statement (.jr rs) := by
  refine ⟨6, _, rfl, rfl, ?_⟩
  simp (disch := decide) only [Row.hits, encode, BitVec.and_or_distrib_right, fieldAt_and, BitVec.or_zero, decide_eq_true_eq]
  decide

theorem jalr (rd rs : Reg) : Statement (.jalr rd rs) := by
  refine ⟨7, _, rfl, rfl, ?_⟩
  simp (disch := decide) only [Row.hits, encode, BitVec.and_or_distrib_right, fieldAt_and, BitVec.or_zero, decide_eq_true_eq]
  decide

theorem syscall (code : Code) : Statement (.syscall code) := by
  refine ⟨8, _, rfl, rfl, ?_⟩
  simp (disch := decide) only [Row.hits, encode, BitVec.and_or_distrib_right, fieldAt_and, BitVec.or_zero, decide_eq_true_eq]
  decide

theorem brk (code : Code) : Statement (.brk code) := by
  refine ⟨9, _, rfl, rfl, ?_⟩
  simp (disch := decide) only [Row.hits, encode, BitVec.and_or_distrib_right, fieldAt_and, BitVec.or_zero, decide_eq_true_eq]
  decide

theorem mfhi (rd : Reg) : Statement (.mfhi rd) := by
  refine ⟨10, _, rfl, rfl, ?_⟩
  simp (disch := decide) only [Row.hits, encode, BitVec.and_or_distrib_right, fieldAt_and, BitVec.or_zero, decide_eq_true_eq]
  decide

theorem mflo (rd : Reg) : Statement (.mflo rd) := by
  refine ⟨11, _, rfl, rfl, ?_⟩
  simp (disch := decide) only [Row.hits, encode, BitVec.and_or_distrib_right, fieldAt_and, BitVec.or_zero, decide_eq_true_eq]
  decide

theorem mthi (rs : Reg) : Statement (.mthi rs) := by
  refine ⟨12, _, rfl, rfl, ?_⟩
  simp (disch := decide) only [Row.hits, encode, BitVec.and_or_distrib_right, fieldAt_and, BitVec.or_zero, decide_eq_true_eq]
  decide

theorem mtlo (rs : Reg) : Statement (.mtlo rs) := by
  refine ⟨13, _, rfl, rfl, ?_⟩
  simp (disch := decide) only [Row.hits, encode, BitVec.and_or_distrib_right, fieldAt_and, BitVec.or_zero, decide_eq_true_eq]
  decide

theorem mult (rs rt : Reg) : Statement (.mult rs rt) := by
  refine ⟨14, _, rfl, rfl, ?_⟩
  simp (disch := decide) only [Row.hits, encode, BitVec.and_or_distrib_right, fieldAt_and, BitVec.or_zero, decide_eq_true_eq]
  decide

theorem multu (rs rt : Reg) : Statement (.multu rs rt) := by
  refine ⟨15, _, rfl, rfl, ?_⟩
  simp (disch := decide) only [Row.hits, encode, BitVec.and_or_distrib_right, fieldAt_and, BitVec.or_zero, decide_eq_true_eq]
  decide

theorem div (rs rt : Reg) : Statement (.div rs rt) := by
  refine ⟨16, _, rfl, rfl, ?_⟩
  simp (disch := decide) only [Row.hits, encode, BitVec.and_or_distrib_right, fieldAt_and, BitVec.or_zero, decide_eq_true_eq]
  decide

theorem divu (rs rt : Reg) : Statement (.divu rs rt) := by
  refine ⟨17, _, rfl, rfl, ?_⟩
  simp (disch := decide) only [Row.hits, encode, BitVec.and_or_distrib_right, fieldAt_and, BitVec.or_zero, decide_eq_true_eq]
  decide

theorem add (rd rs rt : Reg) : Statement (.add rd rs rt) := by
  refine ⟨18, _, rfl, rfl, ?_⟩
  simp (disch := decide) only [Row.hits, encode, BitVec.and_or_distrib_right, fieldAt_and, BitVec.or_zero, decide_eq_true_eq]
  decide

theorem addu (rd rs rt : Reg) : Statement (.addu rd rs rt) := by
  refine ⟨19, _, rfl, rfl, ?_⟩
  simp (disch := decide) only [Row.hits, encode, BitVec.and_or_distrib_right, fieldAt_and, BitVec.or_zero, decide_eq_true_eq]
  decide

theorem sub (rd rs rt : Reg) : Statement (.sub rd rs rt) := by
  refine ⟨20, _, rfl, rfl, ?_⟩
  simp (disch := decide) only [Row.hits, encode, BitVec.and_or_distrib_right, fieldAt_and, BitVec.or_zero, decide_eq_true_eq]
  decide

theorem subu (rd rs rt : Reg) : Statement (.subu rd rs rt) := by
  refine ⟨21, _, rfl, rfl, ?_⟩
  simp (disch := decide) only [Row.hits, encode, BitVec.and_or_distrib_right, fieldAt_and, BitVec.or_zero, decide_eq_true_eq]
  decide

theorem and (rd rs rt : Reg) : Statement (.and rd rs rt) := by
  refine ⟨22, _, rfl, rfl, ?_⟩
  simp (disch := decide) only [Row.hits, encode, BitVec.and_or_distrib_right, fieldAt_and, BitVec.or_zero, decide_eq_true_eq]
  decide

theorem or (rd rs rt : Reg) : Statement (.or rd rs rt) := by
  refine ⟨23, _, rfl, rfl, ?_⟩
  simp (disch := decide) only [Row.hits, encode, BitVec.and_or_distrib_right, fieldAt_and, BitVec.or_zero, decide_eq_true_eq]
  decide

theorem xor (rd rs rt : Reg) : Statement (.xor rd rs rt) := by
  refine ⟨24, _, rfl, rfl, ?_⟩
  simp (disch := decide) only [Row.hits, encode, BitVec.and_or_distrib_right, fieldAt_and, BitVec.or_zero, decide_eq_true_eq]
  decide

theorem nor (rd rs rt : Reg) : Statement (.nor rd rs rt) := by
  refine ⟨25, _, rfl, rfl, ?_⟩
  simp (disch := decide) only [Row.hits, encode, BitVec.and_or_distrib_right, fieldAt_and, BitVec.or_zero, decide_eq_true_eq]
  decide

theorem slt (rd rs rt : Reg) : Statement (.slt rd rs rt) := by
  refine ⟨26, _, rfl, rfl, ?_⟩
  simp (disch := decide) only [Row.hits, encode, BitVec.and_or_distrib_right, fieldAt_and, BitVec.or_zero, decide_eq_true_eq]
  decide

theorem sltu (rd rs rt : Reg) : Statement (.sltu rd rs rt) := by
  refine ⟨27, _, rfl, rfl, ?_⟩
  simp (disch := decide) only [Row.hits, encode, BitVec.and_or_distrib_right, fieldAt_and, BitVec.or_zero, decide_eq_true_eq]
  decide

theorem bltz (rs : Reg) (imm : Imm) : Statement (.bltz rs imm) := by
  refine ⟨28, _, rfl, rfl, ?_⟩
  simp (disch := decide) only [Row.hits, encode, BitVec.and_or_distrib_right, fieldAt_and, BitVec.or_zero, decide_eq_true_eq]
  decide

theorem bgez (rs : Reg) (imm : Imm) : Statement (.bgez rs imm) := by
  refine ⟨29, _, rfl, rfl, ?_⟩
  simp (disch := decide) only [Row.hits, encode, BitVec.and_or_distrib_right, fieldAt_and, BitVec.or_zero, decide_eq_true_eq]
  decide

theorem bltzal (rs : Reg) (imm : Imm) : Statement (.bltzal rs imm) := by
  refine ⟨30, _, rfl, rfl, ?_⟩
  simp (disch := decide) only [Row.hits, encode, BitVec.and_or_distrib_right, fieldAt_and, BitVec.or_zero, decide_eq_true_eq]
  decide

theorem bgezal (rs : Reg) (imm : Imm) : Statement (.bgezal rs imm) := by
  refine ⟨31, _, rfl, rfl, ?_⟩
  simp (disch := decide) only [Row.hits, encode, BitVec.and_or_distrib_right, fieldAt_and, BitVec.or_zero, decide_eq_true_eq]
  decide

theorem j (index : Index) : Statement (.j index) := by
  refine ⟨32, _, rfl, rfl, ?_⟩
  simp (disch := decide) only [Row.hits, encode, BitVec.and_or_distrib_right, fieldAt_and, BitVec.or_zero, decide_eq_true_eq]
  decide

theorem jal (index : Index) : Statement (.jal index) := by
  refine ⟨33, _, rfl, rfl, ?_⟩
  simp (disch := decide) only [Row.hits, encode, BitVec.and_or_distrib_right, fieldAt_and, BitVec.or_zero, decide_eq_true_eq]
  decide

theorem beq (rs rt : Reg) (imm : Imm) : Statement (.beq rs rt imm) := by
  refine ⟨34, _, rfl, rfl, ?_⟩
  simp (disch := decide) only [Row.hits, encode, BitVec.and_or_distrib_right, fieldAt_and, BitVec.or_zero, decide_eq_true_eq]
  decide

theorem bne (rs rt : Reg) (imm : Imm) : Statement (.bne rs rt imm) := by
  refine ⟨35, _, rfl, rfl, ?_⟩
  simp (disch := decide) only [Row.hits, encode, BitVec.and_or_distrib_right, fieldAt_and, BitVec.or_zero, decide_eq_true_eq]
  decide

theorem blez (rs : Reg) (imm : Imm) : Statement (.blez rs imm) := by
  refine ⟨36, _, rfl, rfl, ?_⟩
  simp (disch := decide) only [Row.hits, encode, BitVec.and_or_distrib_right, fieldAt_and, BitVec.or_zero, decide_eq_true_eq]
  decide

theorem bgtz (rs : Reg) (imm : Imm) : Statement (.bgtz rs imm) := by
  refine ⟨37, _, rfl, rfl, ?_⟩
  simp (disch := decide) only [Row.hits, encode, BitVec.and_or_distrib_right, fieldAt_and, BitVec.or_zero, decide_eq_true_eq]
  decide

theorem addi (rt rs : Reg) (imm : Imm) : Statement (.addi rt rs imm) := by
  refine ⟨38, _, rfl, rfl, ?_⟩
  simp (disch := decide) only [Row.hits, encode, BitVec.and_or_distrib_right, fieldAt_and, BitVec.or_zero, decide_eq_true_eq]
  decide

theorem addiu (rt rs : Reg) (imm : Imm) : Statement (.addiu rt rs imm) := by
  refine ⟨39, _, rfl, rfl, ?_⟩
  simp (disch := decide) only [Row.hits, encode, BitVec.and_or_distrib_right, fieldAt_and, BitVec.or_zero, decide_eq_true_eq]
  decide

theorem slti (rt rs : Reg) (imm : Imm) : Statement (.slti rt rs imm) := by
  refine ⟨40, _, rfl, rfl, ?_⟩
  simp (disch := decide) only [Row.hits, encode, BitVec.and_or_distrib_right, fieldAt_and, BitVec.or_zero, decide_eq_true_eq]
  decide

theorem sltiu (rt rs : Reg) (imm : Imm) : Statement (.sltiu rt rs imm) := by
  refine ⟨41, _, rfl, rfl, ?_⟩
  simp (disch := decide) only [Row.hits, encode, BitVec.and_or_distrib_right, fieldAt_and, BitVec.or_zero, decide_eq_true_eq]
  decide

theorem andi (rt rs : Reg) (imm : Imm) : Statement (.andi rt rs imm) := by
  refine ⟨42, _, rfl, rfl, ?_⟩
  simp (disch := decide) only [Row.hits, encode, BitVec.and_or_distrib_right, fieldAt_and, BitVec.or_zero, decide_eq_true_eq]
  decide

theorem ori (rt rs : Reg) (imm : Imm) : Statement (.ori rt rs imm) := by
  refine ⟨43, _, rfl, rfl, ?_⟩
  simp (disch := decide) only [Row.hits, encode, BitVec.and_or_distrib_right, fieldAt_and, BitVec.or_zero, decide_eq_true_eq]
  decide

theorem xori (rt rs : Reg) (imm : Imm) : Statement (.xori rt rs imm) := by
  refine ⟨44, _, rfl, rfl, ?_⟩
  simp (disch := decide) only [Row.hits, encode, BitVec.and_or_distrib_right, fieldAt_and, BitVec.or_zero, decide_eq_true_eq]
  decide

theorem lui (rt : Reg) (imm : Imm) : Statement (.lui rt imm) := by
  refine ⟨45, _, rfl, rfl, ?_⟩
  simp (disch := decide) only [Row.hits, encode, BitVec.and_or_distrib_right, fieldAt_and, BitVec.or_zero, decide_eq_true_eq]
  decide

theorem mfc0 (rt rd : Reg) (sel : Sel) : Statement (.mfc0 rt rd sel) := by
  refine ⟨46, _, rfl, rfl, ?_⟩
  simp (disch := decide) only [Row.hits, encode, BitVec.and_or_distrib_right, fieldAt_and, BitVec.or_zero, decide_eq_true_eq]
  decide

theorem mtc0 (rt rd : Reg) (sel : Sel) : Statement (.mtc0 rt rd sel) := by
  refine ⟨47, _, rfl, rfl, ?_⟩
  simp (disch := decide) only [Row.hits, encode, BitVec.and_or_distrib_right, fieldAt_and, BitVec.or_zero, decide_eq_true_eq]
  decide

theorem lb (rt : Reg) (imm : Imm) (rs : Reg) : Statement (.lb rt imm rs) := by
  refine ⟨48, _, rfl, rfl, ?_⟩
  simp (disch := decide) only [Row.hits, encode, BitVec.and_or_distrib_right, fieldAt_and, BitVec.or_zero, decide_eq_true_eq]
  decide

theorem lh (rt : Reg) (imm : Imm) (rs : Reg) : Statement (.lh rt imm rs) := by
  refine ⟨49, _, rfl, rfl, ?_⟩
  simp (disch := decide) only [Row.hits, encode, BitVec.and_or_distrib_right, fieldAt_and, BitVec.or_zero, decide_eq_true_eq]
  decide

theorem lw (rt : Reg) (imm : Imm) (rs : Reg) : Statement (.lw rt imm rs) := by
  refine ⟨50, _, rfl, rfl, ?_⟩
  simp (disch := decide) only [Row.hits, encode, BitVec.and_or_distrib_right, fieldAt_and, BitVec.or_zero, decide_eq_true_eq]
  decide

theorem lbu (rt : Reg) (imm : Imm) (rs : Reg) : Statement (.lbu rt imm rs) := by
  refine ⟨51, _, rfl, rfl, ?_⟩
  simp (disch := decide) only [Row.hits, encode, BitVec.and_or_distrib_right, fieldAt_and, BitVec.or_zero, decide_eq_true_eq]
  decide

theorem lhu (rt : Reg) (imm : Imm) (rs : Reg) : Statement (.lhu rt imm rs) := by
  refine ⟨52, _, rfl, rfl, ?_⟩
  simp (disch := decide) only [Row.hits, encode, BitVec.and_or_distrib_right, fieldAt_and, BitVec.or_zero, decide_eq_true_eq]
  decide

theorem sb (rt : Reg) (imm : Imm) (rs : Reg) : Statement (.sb rt imm rs) := by
  refine ⟨53, _, rfl, rfl, ?_⟩
  simp (disch := decide) only [Row.hits, encode, BitVec.and_or_distrib_right, fieldAt_and, BitVec.or_zero, decide_eq_true_eq]
  decide

theorem sh (rt : Reg) (imm : Imm) (rs : Reg) : Statement (.sh rt imm rs) := by
  refine ⟨54, _, rfl, rfl, ?_⟩
  simp (disch := decide) only [Row.hits, encode, BitVec.and_or_distrib_right, fieldAt_and, BitVec.or_zero, decide_eq_true_eq]
  decide

theorem sw (rt : Reg) (imm : Imm) (rs : Reg) : Statement (.sw rt imm rs) := by
  refine ⟨55, _, rfl, rfl, ?_⟩
  simp (disch := decide) only [Row.hits, encode, BitVec.and_or_distrib_right, fieldAt_and, BitVec.or_zero, decide_eq_true_eq]
  decide


end Sys2Proof.Laws.RowMatches
end

