-- ==== Sys2Proof/Laws/Step.lean ====
section
/-! SUPPORT. What a step can do, said once: the cases of the single-cycle core (50_core_single_cycle.md R302) and of the pipelined core
(51_core_pipelined.md R342), and of the stages of the latter. -/

namespace Sys2Proof.Machine

/-- A step in status `Running`. -/
theorem step_running {s : State} (h : s.run = .running) :
    step s = if s.cfg.wellFormed then (if s.cfg.pipelined then stepPipelined s else stepSingle s) else .refused .illFormedConfig := by
  simp [step, h]

/-- A step outside `Running`. -/
theorem step_stopped {s : State} (h : s.run ≠ .running) : step s = .next s := by
  unfold step
  split
  · rfl
  · rfl
  · exact absurd ‹_› h

/-- A step that answers a next state. -/
theorem step_cases {s t : State} (h : step s = .next t) :
    (s.run ≠ .running ∧ t = s) ∨
    (s.run = .running ∧ s.cfg.wellFormed = true ∧ s.cfg.pipelined = false ∧ stepSingle s = .next t) ∨
    (s.run = .running ∧ s.cfg.wellFormed = true ∧ s.cfg.pipelined = true ∧ stepPipelined s = .next t) := by
  by_cases hr : s.run = .running
  · rw [step_running hr] at h
    cases hw : s.cfg.wellFormed with
    | false => rw [hw] at h; cases h
    | true =>
      cases hp : s.cfg.pipelined with
      | false => rw [hw, hp] at h; exact .inr (.inl ⟨hr, rfl, rfl, h⟩)
      | true => rw [hw, hp] at h; exact .inr (.inr ⟨hr, rfl, rfl, h⟩)
  · rw [step_stopped hr] at h
    cases h
    exact .inl ⟨hr, rfl⟩

/-- What a step of the single-cycle core can do. -/
theorem stepSingle_cases (s : State) :
    (s.cfg.haltAddr = some s.pc ∧ stepSingle s = .next s.beginCycle.halt) ∨
    (s.cfg.haltAddr ≠ some s.pc ∧ aligned4 s.pc = false ∧ stepSingle s = .fault (.misalignedFetch s.pc)) ∨
    (s.cfg.haltAddr ≠ some s.pc ∧ aligned4 s.pc = true ∧
      ((∃ kind a, s.beginCycle.fetchWord s.mem s.pc = .trap kind a ∧
          stepSingle s = .next (s.beginCycle.takeTrap s.pc kind (some a))) ∨
       (∃ w s', s.beginCycle.fetchWord s.mem s.pc = .ok w s' ∧ decode w = none ∧
          stepSingle s = .next ((s'.emit (.fetch s.pc w)).takeTrap s'.pc .unsupportedInstruction none)) ∨
       (∃ w s' i, s.beginCycle.fetchWord s.mem s.pc = .ok w s' ∧ decode w = some i ∧
          stepSingle s = exec i ((s'.emit (.fetch s.pc w)).emit (.execute s'.pc i))))) := by
  unfold stepSingle
  by_cases hh : s.cfg.haltAddr = some s.pc
  · exact .inl ⟨hh, by simp [hh]⟩
  · refine .inr ?_
    cases ha : aligned4 s.pc with
    | false => exact .inl ⟨hh, rfl, by simp [hh, State.pcMisaligned, ha]⟩
    | true =>
      refine .inr ⟨hh, rfl, ?_⟩
      have e : stepSingle s = fetchAndExec s.beginCycle := by simp [stepSingle, hh, State.pcMisaligned, ha]
      unfold stepSingle at e
      rw [e]
      unfold fetchAndExec
      simp only [State.beginCycle_mem, State.beginCycle_pc]
      cases hf : s.beginCycle.fetchWord s.mem s.pc with
      | trap kind a => exact .inl ⟨kind, a, rfl, rfl⟩
      | ok w s' =>
        refine .inr ?_
        cases hd : decode w with
        | none => exact .inl ⟨w, s', rfl, hd, by simp only [execWord, hd, State.emit_pc]⟩
        | some i => exact .inr ⟨w, s', i, rfl, hd, by simp only [execWord, hd, State.emit_pc]⟩

/-- What MEM can do. -/
theorem memStage_cases (s : State) :
    (s.exMem = .bubble ∧ memStage s = .ok .bubble s) ∨
    (∃ q, s.exMem = .slot q ∧
      ((q.memop = none ∧ memStage s = .ok (.slot (q.withValue q.result)) s) ∨
       (∃ a n sg, q.memop = some (.load a n sg) ∧
         ((∃ k bad, s.memRead a n = .trap k bad ∧ memStage s = .trap q.pc k bad) ∨
          (∃ v s', s.memRead a n = .ok v s' ∧ memStage s = .ok (.slot (q.withValue (some (extendLoad n sg v)))) s'))) ∨
       (∃ a n v, q.memop = some (.store a n v) ∧
         ((∃ k bad, s.memWrite a v n = .trap k bad ∧ memStage s = .trap q.pc k bad) ∨
          (∃ s', s.memWrite a v n = .ok s' ∧
            memStage s = .ok (.slot (q.withValue none)) { s' with events := .memory a n v :: s'.events }))))) := by
  cases he : s.exMem with
  | bubble => exact .inl ⟨rfl, by simp only [memStage, he]⟩
  | slot q =>
    refine .inr ⟨q, rfl, ?_⟩
    cases hm : q.memop with
    | none => exact .inl ⟨rfl, by simp only [memStage, he, hm]⟩
    | some op =>
      refine .inr ?_
      cases op with
      | load a n sg =>
        refine .inl ⟨a, n, sg, rfl, ?_⟩
        cases h : s.memRead a n with
        | trap k bad => exact .inl ⟨k, bad, rfl, by simp only [memStage, he, hm, h]⟩
        | ok v s' => exact .inr ⟨v, s', rfl, by simp only [memStage, he, hm, h]⟩
      | store a n v =>
        refine .inr ⟨a, n, v, rfl, ?_⟩
        cases h : s.memWrite a v n with
        | trap k bad => exact .inl ⟨k, bad, rfl, by simp only [memStage, he, hm, h]⟩
        | ok s' => exact .inr ⟨s', rfl, by simp only [memStage, he, hm, h]⟩

/-- MEM, where it goes on, moves the data cache, memory and the draw counter alone, and puts the notification of its store first. -/
theorem memStage_ok {s s' : State} {mw : Latch MemWbSlot} (h : memStage s = .ok mw s') :
    ∃ k m d, s' = { s with dCache := k, mem := m, draws := d, events := memoryEvents s ++ s.events } := by
  rcases memStage_cases s with ⟨hx, e⟩ | ⟨q, hx, ⟨ho, e⟩ | ⟨a, n, sg, ho, ⟨k, bad, _, e⟩ | ⟨v, s'', hr, e⟩⟩ |
      ⟨a, n, v, ho, ⟨k, bad, _, e⟩ | ⟨s'', hw, e⟩⟩⟩ <;> rw [e] at h <;> cases h
  · rw [show memoryEvents s = [] by simp only [memoryEvents, hx]]
    exact ⟨s.dCache, s.mem, s.draws, rfl⟩
  · rw [show memoryEvents s = [] by simp only [memoryEvents, hx, ho, storeEvents]]
    exact ⟨s.dCache, s.mem, s.draws, rfl⟩
  · rw [show memoryEvents s = [] by simp only [memoryEvents, hx, ho, storeEvents]]
    exact State.memRead_ok hr
  · rw [show memoryEvents s = [.memory a n v] by simp only [memoryEvents, hx, ho, storeEvents]]
    obtain ⟨k, m, rfl⟩ := State.memWrite_ok hw
    exact ⟨k, m, s.draws, rfl⟩

/-- What EX can do. -/
theorem exStage_cases (s : State) :
    (s.idEx = .bubble ∧ exStage s = .ok .bubble none s) ∨
    (∃ q, s.idEx = .slot q ∧
      ((s.cfg.haltAddr = some q.pc ∧ exStage s = .halt q.pc) ∨
       (s.cfg.haltAddr ≠ some q.pc ∧
         ((∃ kind, q.payload = .fault kind ∧ exStage s = .trap q.pc kind (carriedAddr kind q.pc)) ∨
          (∃ i a b, q.payload = .inst i a b ∧
            ((s.exDelaySlot = true ∧ isControl i = true ∧ exStage s = .refuse .controlInDelaySlot) ∨
             ((s.exDelaySlot = false ∨ isControl i = false) ∧
               ((∃ k ad, operate i (s.fwd (portA i) a) (s.fwd (portB i) b) q.pc s = .trap k ad ∧ exStage s = .trap q.pc k ad) ∨
                (operate i (s.fwd (portA i) a) (s.fwd (portB i) b) q.pc s = .halt ∧ exStage s = .halt q.pc) ∨
                (∃ r, operate i (s.fwd (portA i) a) (s.fwd (portB i) b) q.pc s = .refuse r ∧ exStage s = .refuse r) ∨
                (∃ e, operate i (s.fwd (portA i) a) (s.fwd (portB i) b) q.pc s = .done e ∧ exStage s = exDone q.pc i e s))))))))) := by
  cases he : s.idEx with
  | bubble => exact .inl ⟨rfl, by simp only [exStage, he]⟩
  | slot q =>
    refine .inr ⟨q, rfl, ?_⟩
    by_cases hh : s.cfg.haltAddr = some q.pc
    · exact .inl ⟨hh, by simp only [exStage, he, hh, if_true]⟩
    · refine .inr ⟨hh, ?_⟩
      cases hp : q.payload with
      | fault kind => exact .inl ⟨kind, rfl, by simp only [exStage, he, hh, hp, if_false]⟩
      | inst i a b =>
        refine .inr ⟨i, a, b, rfl, ?_⟩
        have e : exStage s = exInstr q.pc i a b s := by simp only [exStage, he, hh, hp, if_false]
        rw [e]
        unfold exInstr
        by_cases hd : s.exDelaySlot = true ∧ isControl i = true
        · exact .inl ⟨hd.1, hd.2, by simp [hd.1, hd.2]⟩
        · have hd' : (s.exDelaySlot && isControl i) = false := by
            cases h1 : s.exDelaySlot <;> cases h2 : isControl i <;> simp_all
          refine .inr ⟨by cases h1 : s.exDelaySlot <;> cases h2 : isControl i <;> simp_all, ?_⟩
          simp only [hd', Bool.false_eq_true, if_false]
          cases ho : operate i (s.fwd (portA i) a) (s.fwd (portB i) b) q.pc s with
          | trap k ad => exact .inl ⟨k, ad, rfl, rfl⟩
          | halt => exact .inr (.inl ⟨rfl, rfl⟩)
          | refuse r => exact .inr (.inr (.inl ⟨r, rfl, rfl⟩))
          | done f => exact .inr (.inr (.inr ⟨f, rfl, rfl⟩))

/-- EX, where it goes on, moves HI, LO, Coprocessor 0, the notifications, the draw counter and the delay-slot mark alone. -/
theorem exStage_ok {s s' : State} {em : Latch ExMemSlot} {rd : Option Word} (h : exStage s = .ok em rd s') :
    (s.idEx = .bubble ∧ em = .bubble ∧ rd = none ∧ s' = s) ∨
    ∃ q i a b e, s.idEx = .slot q ∧ q.payload = .inst i a b ∧ s.cfg.haltAddr ≠ some q.pc ∧ (s.exDelaySlot = false ∨ isControl i = false) ∧
      operate i (s.fwd (portA i) a) (s.fwd (portB i) b) q.pc s = .done e ∧
      em = .slot { pc := q.pc, instr := i, result := e.result, memop := e.memop, dest := destOf i } ∧ rd = e.target ∧
      s' = { s.applySpecial e with exDelaySlot := s.cfg.delaySlot && e.target.isSome } := by
  rcases exStage_cases s with ⟨hb, e⟩ | ⟨q, hq, ⟨_, e⟩ | ⟨hh, ⟨k, _, e⟩ | ⟨i, a, b, hp, ⟨_, _, e⟩ | ⟨hd, ⟨_, _, _, e⟩ | ⟨_, e⟩ | ⟨_, _, e⟩ | ⟨f, ho, e⟩⟩⟩⟩⟩ <;>
    rw [e] at h
  · cases h; exact .inl ⟨hb, rfl, rfl, rfl⟩
  · cases h
  · cases h
  · cases h
  · cases h
  · cases h
  · cases h
  · cases h
    exact .inr ⟨q, i, a, b, f, hq, hp, hh, hd, ho, rfl, rfl, rfl⟩

/-- IF moves the instruction cache and the draw counter alone, and puts the notification of its fetch, if it has one, first: the word it
fetches is the one it offers. -/
theorem ifStage_state (m : Memory) (fetching : Bool) (s : State) :
    ∃ k d fetched, (ifStage m fetching s).2 = { s with iCache := k, draws := d, events := fetched ++ s.events } ∧
      ((fetched = [] ∧ ∀ w, (ifStage m fetching s).1 ≠ .slot { pc := s.pc, payload := .word w }) ∨
        ∃ w, fetched = [.fetch s.pc w] ∧ (ifStage m fetching s).1 = .slot { pc := s.pc, payload := .word w }) := by
  unfold ifStage
  split
  · split
    · rename_i w s' h
      obtain ⟨k, d, rfl⟩ := State.fetchWord_ok h
      exact ⟨k, d, [.fetch s.pc w], rfl, .inr ⟨w, rfl, rfl⟩⟩
    · exact ⟨_, _, [], rfl, .inl ⟨rfl, by simp⟩⟩
  · exact ⟨_, _, [], rfl, .inl ⟨rfl, by simp⟩⟩

/-- What IF offers: nothing when it does not fetch, else a slot for PC. -/
theorem ifStage_offer (m : Memory) (s : State) :
    (ifStage m false s) = (.bubble, s) ∧ ∃ p, (ifStage m true s).1 = .slot { pc := s.pc, payload := p } := by
  refine ⟨rfl, ?_⟩
  simp only [ifStage, if_true]
  split <;> exact ⟨_, rfl⟩

/-- The notification of the instruction that EX executes, as the statements say it. -/
theorem State.executeNotices_eq (s : State) : s.executeNotices = executeEvents s := by
  unfold State.executeNotices executeEvents
  rcases s.idEx with _ | ⟨pc, _ | _⟩ <;> simp

/-- What a step of the pipelined core can do. -/
theorem stepPipelined_cases {s t : State} (h : stepPipelined s = .next t) :
    (∃ pc k a, memStage s.beginCycle.writeBack = .trap pc k a ∧ t = s.beginCycle.writeBack.stageTrap [] pc k (some a)) ∨
    (∃ mw s2, memStage s.beginCycle.writeBack = .ok mw s2 ∧
      ((∃ pc, exStage { s2 with events := s2.executeNotices } = .halt pc ∧ t = (({ s2 with events := s2.executeNotices ++ s2.events }.drain mw).setPc pc).halt) ∨
       (∃ pc k a, exStage { s2 with events := s2.executeNotices } = .trap pc k a ∧ t = (s2.drain mw).stageTrap s2.executeNotices pc k a) ∨
       (∃ em rd s3 fetching, exStage { s2 with events := s2.executeNotices } = .ok em rd s3 ∧
         fetching = (!(idStage s3).stall && !s3.structuralStall) ∧ (fetching = true → aligned4 s3.pc = true) ∧
         t = (ifStage s.mem fetching s3).2.commitLatches (frontNext rd (idStage s3) fetching (ifStage s.mem fetching s3).1 s3)
           em mw s2.events))) := by
  unfold stepPipelined at h
  simp only at h
  cases hm : memStage s.beginCycle.writeBack with
  | trap pc k a =>
    rw [hm] at h
    cases h
    exact .inl ⟨pc, k, a, rfl, rfl⟩
  | ok mw s2 =>
    rw [hm] at h
    refine .inr ⟨mw, s2, rfl, ?_⟩
    unfold afterMem at h
    simp only at h
    cases he : exStage { s2 with events := s2.executeNotices } with
    | refuse r => rw [he] at h; cases h
    | halt pc => rw [he] at h; cases h; exact .inl ⟨pc, rfl, rfl⟩
    | trap pc k a => rw [he] at h; cases h; exact .inr (.inl ⟨pc, k, a, rfl, rfl⟩)
    | ok em rd s3 =>
      rw [he] at h
      simp only [finishCycle] at h
      split at h
      · cases h
      · rename_i hc
        cases h
        refine .inr (.inr ⟨em, rd, s3, _, rfl, rfl, ?_, rfl⟩)
        intro hf
        simp only [hf, Bool.true_and, State.pcMisaligned, Bool.not_eq_true', Bool.not_eq_false] at hc
        exact hc

end Sys2Proof.Machine
end

