-- ==== Sys2Proof/Machine/Files.lean ====
section
/-! DEFINITION. The host's file formats that fill memory and show it (20_memory.md R71): load-range from the text of its file, dump-range to
text. The integer literals are those of 31_assembly_syntax.md R175. What R71 leaves open is marked in notes/assumptions 29. -/

namespace Sys2Proof.Machine

/-! Integers. -/

/-- The value of a digit, of any base up to 16. -/
def digitValue (c : Char) : Option Nat :=
  if '0' ≤ c ∧ c ≤ '9' then some (c.toNat - '0'.toNat)
  else if 'a' ≤ c ∧ c ≤ 'f' then some (c.toNat - 'a'.toNat + 10)
  else if 'A' ≤ c ∧ c ≤ 'F' then some (c.toNat - 'A'.toNat + 10)
  else none

/-- The value of digits of a base, after the value `acc` of those before them. -/
def digitsValue (base acc : Nat) : List Char → Option Nat
  | [] => some acc
  | c :: rest =>
    match digitValue c with
    | none => none
    | some d => if d < base then digitsValue base (acc * base + d) rest else none

/-- The value of one digit or more of a base. -/
def numeralValue (base : Nat) : List Char → Option Nat
  | [] => none
  | c :: rest => digitsValue base 0 (c :: rest)

/-- R71, R175: an unsigned integer: decimal, `0x` hexadecimal, `0` octal, `0b` binary. -/
def unsignedValue : List Char → Option Nat
  | '0' :: 'x' :: rest => numeralValue 16 rest
  | '0' :: 'X' :: rest => numeralValue 16 rest
  | '0' :: 'b' :: rest => numeralValue 2 rest
  | '0' :: 'B' :: rest => numeralValue 2 rest
  | '0' :: c :: rest => numeralValue 8 (c :: rest)
  | text => numeralValue 10 text

/-- R71: the word an integer stands for; none where it does not fit in 32 bits (DESIGN CHOICE, notes/assumptions 29). -/
def wordOfText (text : List Char) : Option Word :=
  match unsignedValue text with
  | none => none
  | some v => if v < 2 ^ 32 then some (BitVec.ofNat 32 v) else none

/-! Load-range. -/

/-- The lines of a text, without their ends. -/
def linesOf : List Char → List (List Char)
  | [] => [[]]
  | c :: rest =>
    if c = '\n' then [] :: linesOf rest
    else
      match linesOf rest with
      | [] => [[c]]
      | line :: others => (c :: line) :: others

/-- A line without the blanks around it (DESIGN CHOICE, notes/assumptions 29). -/
def trimLine (line : List Char) : List Char :=
  let blank (c : Char) : Bool := c == ' ' || c == '\t' || c == '\r'
  ((line.dropWhile blank).reverse.dropWhile blank).reverse

/-- R71: the words of the lines that are not empty, one integer each; none if one is no integer. -/
def wordsOfLines : List (List Char) → Option (List Word)
  | [] => some []
  | line :: rest =>
    match trimLine line with
    | [] => wordsOfLines rest
    | c :: cs =>
      match wordOfText (c :: cs) with
      | none => none
      | some w => (wordsOfLines rest).map (fun ws => w :: ws)

/-- R71: load-range of the text of a file: nothing is written where a line is no integer (DESIGN CHOICE, notes/assumptions 29). -/
def State.loadRangeText (start : Word) (text : List Char) (s : State) : Option State :=
  match wordsOfLines (linesOf text) with
  | none => none
  | some words => s.loadRange start words

/-! Dump-range. -/

/-- R71: one line of a dump-range: a word in hexadecimal, `0x` and eight digits (DESIGN CHOICE, notes/assumptions 19). -/
def dumpLine (w : Word) : String :=
  let digits := (Nat.toDigits 16 w.toNat).map Char.toUpper
  "0x" ++ String.ofList (List.replicate (8 - digits.length) '0' ++ digits)

/-- R71: the lines of a dump, each with its end. -/
def dumpText : List Word → String
  | [] => ""
  | w :: rest => dumpLine w ++ "\n" ++ dumpText rest

/-- R71: dump-range: `n` words from START, rounded down to 4 as by load-range, one a line, addresses ascending; none where one of them cannot be
read (DESIGN CHOICE, notes/assumptions 29). -/
def State.dumpRange (start : Word) (n : Nat) (s : State) : Option String := (s.readRange (wordBase start) n).map dumpText

end Sys2Proof.Machine
end

