-- ==== Sys2Proof/Tests/Slice0.lean ====
section
/-! SUPPORT. The model's own tests: decoding of words written out from 30_encoding.md R149 and 95_test_vectors.md section 2.7, one ill-formed
configuration for each check of R6, one step of each instruction on a small state (the vectors of 95_test_vectors.md parts 1 and 2, named
in each docstring), and for each statement with hypotheses a state and operands that meet them. -/

namespace Sys2Proof.Tests

open Sys2Proof.Machine

/-! Helpers. -/

def asNext : StepResult → Option State
  | .next s => some s
  | .fault _ => none
  | .refused _ => none

def asRefusal : StepResult → Option Refusal
  | .next _ => none
  | .fault _ => none
  | .refused r => some r

theorem exists_next {r : StepResult} (p : State → Bool) (h : (asNext r).any p = true) : ∃ t, r = .next t ∧ p t = true := by
  cases r with
  | next t => exact ⟨t, rfl, by simpa [asNext] using h⟩
  | fault _ => simp [asNext] at h
  | refused _ => simp [asNext] at h

theorem refused_of {r : StepResult} {e : Refusal} (h : asRefusal r = some e) : r = .refused e := by
  cases r with
  | next _ => simp [asRefusal] at h
  | fault _ => simp [asRefusal] at h
  | refused r => simpa [asRefusal] using h

/-- The machine at address 0x100 with the given general registers. -/
def regs (xs : List (Reg × Word)) : State := xs.foldl (fun s p => { s with gpr := s.gpr.set p.1.toNat p.2 p.1.isLt }) State.reset

/-- One step of the word `w` placed where the machine fetches. -/
def run1 (w : Word) (s : State) : Option State := asNext (step (s.placeFetchWord w))

/-- What general register `r` holds after one step that goes on. -/
def value (w : Word) (xs : List (Reg × Word)) (r : Reg) : Option Word :=
  (run1 w (regs xs)).bind fun t => if t.run = .running then some (t.x r) else none

/-- HI and LO after one step, from HI = 0x11111111 and LO = 0x22222222. -/
def hiLo (w : Word) (xs : List (Reg × Word)) : Option (Word × Word) :=
  (run1 w { regs xs with hi := 0x11111111#32, lo := 0x22222222#32 }).map fun t => (t.hi, t.lo)

/-- The status and `Cause / EPC / BadVAddr` after one step. -/
def record (w : Word) (s : State) : Option (RunStatus × Word × Word × Word) :=
  (run1 w s).map fun t => (t.run, t.cause, t.epc, t.badVAddr)

/-- PC, the waiting target and register 31 after one step at `pc`, with or without a delay slot. -/
def flow (ds : Bool) (pc : Word) (w : Word) (xs : List (Reg × Word)) : Option (Word × Option Word × Word) :=
  (run1 w { regs xs with pc := pc, cfg := { Config.default with delaySlot := ds } }).map fun t => (t.pc, t.pendingTarget, t.x 31#5)

/-- The memory of the load and store vectors: bytes 0x1000 to 0x1007 are 80 7F FE 01 12 34 56 78, the word at 4 is 0xCAFEF00D. -/
def data : Memory := ((Memory.setWord [] 0x1000#32 0x807FFE01#32).setWord 0x1004#32 0x12345678#32).setWord 4#32 0xCAFEF00D#32

/-- Register 2 after a load with register 1 as base. -/
def loaded (w base : Word) : Option Word := (run1 w { regs [(1#5, base), (2#5, 0x55555555#32)] with mem := data }).map fun t => t.x 2#5

/-- The words at 0x1000 and 0x1004 after a store of 0xAABBCCDD. -/
def stored (w : Word) : Option (Word × Word) :=
  (run1 w { regs [(1#5, 0x1000#32), (2#5, 0xAABBCCDD#32)] with mem := data }).map fun t => (t.mem.word 0x1000#32, t.mem.word 0x1004#32)

/-! Decoding. Each first word of a family is written out bit by bit as 30_encoding.md R144 lays the fields out. -/

/-- R149, R157: the shifts; SLL $3,$2,1 bit by bit. -/
theorem test_decode_shifts :
    decode 0b00000000000000100001100001000000#32 = some (.sll 3#5 2#5 1#5) ∧
    decode 0x00021902#32 = some (.srl 3#5 2#5 4#5) ∧
    decode 0x00021FC3#32 = some (.sra 3#5 2#5 31#5) ∧
    decode 0x00221804#32 = some (.sllv 3#5 2#5 1#5) ∧
    decode 0x00221806#32 = some (.srlv 3#5 2#5 1#5) ∧
    decode 0x00221807#32 = some (.srav 3#5 2#5 1#5) := by decide

/-- R149: the register jumps and traps; JR $31 bit by bit. -/
theorem test_decode_special :
    decode 0b00000011111000000000000000001000#32 = some (.jr 31#5) ∧
    decode 0x0040F809#32 = some (.jalr 31#5 2#5) ∧
    decode 0x03FFFFCC#32 = some (.syscall 0xFFFFF#20) ∧
    decode 0x000001CD#32 = some (.brk 7#20) := by decide

/-- R149: multiply, divide, HI and LO; MULT $1,$2 bit by bit. -/
theorem test_decode_muldiv :
    decode 0b00000000001000100000000000011000#32 = some (.mult 1#5 2#5) ∧
    decode 0x00220019#32 = some (.multu 1#5 2#5) ∧
    decode 0x0022001A#32 = some (.div 1#5 2#5) ∧
    decode 0x0022001B#32 = some (.divu 1#5 2#5) ∧
    decode 0x00001810#32 = some (.mfhi 3#5) ∧
    decode 0x00001812#32 = some (.mflo 3#5) ∧
    decode 0x00200011#32 = some (.mthi 1#5) ∧
    decode 0x00200013#32 = some (.mtlo 1#5) := by decide

/-- R149: register arithmetic and logic; ADD $3,$1,$2 bit by bit. -/
theorem test_decode_arith :
    decode 0b00000000001000100001100000100000#32 = some (.add 3#5 1#5 2#5) ∧
    decode 0x00221821#32 = some (.addu 3#5 1#5 2#5) ∧
    decode 0x00221822#32 = some (.sub 3#5 1#5 2#5) ∧
    decode 0x00221823#32 = some (.subu 3#5 1#5 2#5) ∧
    decode 0x00221824#32 = some (.and 3#5 1#5 2#5) ∧
    decode 0x00221825#32 = some (.or 3#5 1#5 2#5) ∧
    decode 0x00221826#32 = some (.xor 3#5 1#5 2#5) ∧
    decode 0x00221827#32 = some (.nor 3#5 1#5 2#5) ∧
    decode 0x0022182A#32 = some (.slt 3#5 1#5 2#5) ∧
    decode 0x0022182B#32 = some (.sltu 3#5 1#5 2#5) := by decide

/-- R149: the branches; BLTZAL $1,4 bit by bit. -/
theorem test_decode_branches :
    decode 0b00000100001100000000000000000100#32 = some (.bltzal 1#5 4#16) ∧
    decode 0x04200004#32 = some (.bltz 1#5 4#16) ∧
    decode 0x04210004#32 = some (.bgez 1#5 4#16) ∧
    decode 0x04310004#32 = some (.bgezal 1#5 4#16) ∧
    decode 0x10220003#32 = some (.beq 1#5 2#5 3#16) ∧
    decode 0x1422FFFE#32 = some (.bne 1#5 2#5 0xFFFE#16) ∧
    decode 0x18200004#32 = some (.blez 1#5 4#16) ∧
    decode 0x1C200004#32 = some (.bgtz 1#5 4#16) := by decide

/-- R149: the J format; JAL 0x400 bit by bit. -/
theorem test_decode_jumps :
    decode 0b00001100000000000000000100000000#32 = some (.jal 0x100#26) ∧
    decode 0x0BFFFFFF#32 = some (.j 0x3FFFFFF#26) := by decide

/-- R149: the immediates; ADDI $2,$1,-1 bit by bit. -/
theorem test_decode_immediates :
    decode 0b00100000001000101111111111111111#32 = some (.addi 2#5 1#5 0xFFFF#16) ∧
    decode 0x24220001#32 = some (.addiu 2#5 1#5 1#16) ∧
    decode 0x2822FFFF#32 = some (.slti 2#5 1#5 0xFFFF#16) ∧
    decode 0x2C227FFF#32 = some (.sltiu 2#5 1#5 0x7FFF#16) ∧
    decode 0x3022FF00#32 = some (.andi 2#5 1#5 0xFF00#16) ∧
    decode 0x3422FFFF#32 = some (.ori 2#5 1#5 0xFFFF#16) ∧
    decode 0x3822FFFF#32 = some (.xori 2#5 1#5 0xFFFF#16) ∧
    decode 0x3C027FFF#32 = some (.lui 2#5 0x7FFF#16) := by decide

/-- R149: Coprocessor 0; MFC0 $2,$14,1 bit by bit. -/
theorem test_decode_cp0 :
    decode 0b01000000000000100111000000000001#32 = some (.mfc0 2#5 14#5 1#3) ∧
    decode 0x40827800#32 = some (.mtc0 2#5 15#5 0#3) := by decide

/-- R149: loads and stores; LW $2,4($1) bit by bit. -/
theorem test_decode_load_store :
    decode 0b10001100001000100000000000000100#32 = some (.lw 2#5 4#16 1#5) ∧
    decode 0x80220001#32 = some (.lb 2#5 1#16 1#5) ∧
    decode 0x84220002#32 = some (.lh 2#5 2#16 1#5) ∧
    decode 0x90220002#32 = some (.lbu 2#5 2#16 1#5) ∧
    decode 0x94220000#32 = some (.lhu 2#5 0#16 1#5) ∧
    decode 0xA0220001#32 = some (.sb 2#5 1#16 1#5) ∧
    decode 0xA4220002#32 = some (.sh 2#5 2#16 1#5) ∧
    decode 0xAC22FFFC#32 = some (.sw 2#5 0xFFFC#16 1#5) := by decide

/-- R150, 95_test_vectors.md E-3: words with a must-be-zero bit set, and words of no row, do not decode. -/
theorem test_decode_unknown :
    [0x00200000#32, 0x00221060#32, 0x03E00408#32, 0x03E10008#32, 0x00221818#32, 0x00001811#32, 0x00200411#32, 0x18010000#32, 0x1C010000#32, 0x3C200001#32, 0x40027008#32, 0x0000000F#32, 0x00000001#32, 0x70221002#32, 0x04020000#32, 0x04120000#32, 0x41000000#32, 0x42000018#32, 0x44000000#32, 0x50000000#32, 0x88000000#32, 0xC0000000#32, 0xFFFFFFFF#32].all
      (fun w => (decode w).isNone) = true := by decide

/-- R154: the bytes of an instruction in address order decode to it, and a truncated sequence does not. -/
theorem test_decode_bytes :
    ((decodeBytes [0x8C#8, 0x22#8, 0x00#8, 0x04#8, 0xFF#8]).toOption = some (.lw 2#5 4#16 1#5, [0xFF#8])) ∧
    (decodeBytes [0x8C#8, 0x22#8, 0x00#8]).toOption = none ∧ decodeTableWord 32 0x8C220004 = some (.lw 2#5 4#16 1#5) := by decide

/-! Configurations (R6, R61). -/

/-- A cache of one set, one way and one word. -/
def oneLine : CacheCfg := { enabled := true, sets := 1, words := 1, ways := 1, replacement := .lru, writePolicy := .writeBack }

/-- Whether a step of a machine with this configuration is refused as ill formed. -/
def refusesConfig (g : Config) : Bool := asRefusal (step { State.reset with cfg := g }) == some .illFormedConfig

/-- RAM up to 0x2000, an uncached peripheral up to 0x3000, nothing above. -/
def smallMap : List Range :=
  [{ lo := 0, hi := 0x2000, backend := .ram, uncached := false }, { lo := 0x2000, hi := 0x3000, backend := .peripheral 0, uncached := true }]

/-- Well-formed configurations are accepted. -/
theorem test_config_accepted :
    refusesConfig Config.default = false ∧ refusesConfig { Config.default with map := smallMap, dCache := oneLine } = false := by decide

/-- R6: a cache with no set. -/
theorem test_config_refuses_sets :
    refusesConfig { Config.default with iCache := { oneLine with sets := 0 } } = true := by decide

/-- R6: a cache with no word in a block. -/
theorem test_config_refuses_words :
    refusesConfig { Config.default with dCache := { oneLine with words := 0 } } = true := by decide

/-- R6: a cache with no way. -/
theorem test_config_refuses_ways :
    refusesConfig { Config.default with dCache := { oneLine with ways := 0 } } = true := by decide

/-- R6: a reset address that is not a multiple of 4. -/
theorem test_config_refuses_reset_pc :
    refusesConfig { Config.default with resetPc := 2#32 } = true := by decide

/-- R6: a halt address that is not a multiple of 4. -/
theorem test_config_refuses_halt_addr :
    refusesConfig { Config.default with haltAddr := some 0x101#32 } = true := by decide

/-- R61: an empty range. -/
theorem test_config_refuses_range_bounds :
    refusesConfig { Config.default with map := [⟨8, 8, .ram, false⟩] } = true := by decide

/-- R61: a range past 2^32. -/
theorem test_config_refuses_range_top :
    refusesConfig { Config.default with map := [⟨0, 2 ^ 32 + 4, .ram, false⟩] } = true := by decide

/-- R61: a range whose bound is not a multiple of 4. -/
theorem test_config_refuses_range_alignment :
    refusesConfig { Config.default with map := [⟨0, 6, .ram, false⟩] } = true := by decide

/-- R61: two ranges that share an address. -/
theorem test_config_refuses_ranges_apart :
    refusesConfig { Config.default with map := [⟨0, 16, .ram, false⟩, ⟨12, 32, .ram, false⟩] } = true := by decide

/-- R6: a cached range that cuts a block of the data cache. -/
theorem test_config_refuses_blocks :
    refusesConfig { Config.default with map := [⟨0, 12, .ram, false⟩], dCache := { oneLine with words := 2 } } = true := by decide

/-- 92_eei_decisions.md section 2: a cached peripheral range. -/
theorem test_config_refuses_peripheral :
    refusesConfig { Config.default with map := [⟨0, 16, .peripheral 0, false⟩] } = true := by decide

/-! Instructions, one step each. -/

/-- A-5. -/
theorem test_add :
    value 0x00221820#32 [(1#5, 0x7FFFFFFF#32), (2#5, 0x80000000#32)] 3#5 = some 0xFFFFFFFF#32 := by decide

/-- A-6: the trap is taken even where the destination is register 0. -/
theorem test_add_overflow :
    record 0x00220020#32 (regs [(1#5, 0x7FFFFFFF#32), (2#5, 0x00000001#32)]) =
      some (.trapped .overflow, 0x00000030#32, 0x00000100#32, 0x00000000#32) := by decide

/-- A-7. -/
theorem test_addu :
    value 0x00221821#32 [(1#5, 0x7FFFFFFF#32), (2#5, 0x00000001#32)] 3#5 = some 0x80000000#32 := by decide

/-- A-12. -/
theorem test_sub :
    value 0x00221822#32 [(1#5, 0x80000000#32), (2#5, 0x80000000#32)] 3#5 = some 0x00000000#32 := by decide

/-- A-13. -/
theorem test_sub_overflow :
    record 0x00221822#32 (regs [(1#5, 0x7FFFFFFF#32), (2#5, 0xFFFFFFFF#32)]) =
      some (.trapped .overflow, 0x00000030#32, 0x00000100#32, 0x00000000#32) := by decide

/-- A-15. -/
theorem test_subu :
    value 0x00221823#32 [(1#5, 0x80000000#32), (2#5, 0x00000001#32)] 3#5 = some 0x7FFFFFFF#32 := by decide

/-- A-16. -/
theorem test_and :
    value 0x00221824#32 [(1#5, 0xF0F0F0F0#32), (2#5, 0x0FF00FF0#32)] 3#5 = some 0x00F000F0#32 := by decide

/-- A-17. -/
theorem test_or :
    value 0x00221825#32 [(1#5, 0xF0F0F0F0#32), (2#5, 0x0FF00FF0#32)] 3#5 = some 0xFFF0FFF0#32 := by decide

/-- A-18. -/
theorem test_xor :
    value 0x00221826#32 [(1#5, 0xF0F0F0F0#32), (2#5, 0x0FF00FF0#32)] 3#5 = some 0xFF00FF00#32 := by decide

/-- A-19. -/
theorem test_nor :
    value 0x00221827#32 [(1#5, 0xF0F0F0F0#32), (2#5, 0x0FF00FF0#32)] 3#5 = some 0x000F000F#32 := by decide

/-- A-23. -/
theorem test_slt :
    value 0x0022182A#32 [(1#5, 0x80000000#32), (2#5, 0x7FFFFFFF#32)] 3#5 = some 0x00000001#32 := by decide

/-- A-25. -/
theorem test_sltu :
    value 0x0022182B#32 [(1#5, 0xFFFFFFFF#32), (2#5, 0x00000001#32)] 3#5 = some 0x00000000#32 := by decide

/-- A-28. -/
theorem test_sll :
    value 0x00021840#32 [(2#5, 0x80000001#32)] 3#5 = some 0x00000002#32 := by decide

/-- A-32. -/
theorem test_srl :
    value 0x00021902#32 [(2#5, 0xF0000000#32)] 3#5 = some 0x0F000000#32 := by decide

/-- A-34. -/
theorem test_sra :
    value 0x00021903#32 [(2#5, 0xF0000000#32)] 3#5 = some 0xFF000000#32 := by decide

/-- A-36: the amount is taken modulo 32. -/
theorem test_sllv :
    value 0x00221804#32 [(1#5, 0x00000021#32), (2#5, 0x00000001#32)] 3#5 = some 0x00000002#32 := by decide

/-- A-39. -/
theorem test_srlv :
    value 0x00221806#32 [(1#5, 0x00000004#32), (2#5, 0x80000000#32)] 3#5 = some 0x08000000#32 := by decide

/-- A-41. -/
theorem test_srav :
    value 0x00221807#32 [(1#5, 0x00000024#32), (2#5, 0x80000000#32)] 3#5 = some 0xF8000000#32 := by decide

/-- M-1. -/
theorem test_mult :
    hiLo 0x00220018#32 [(1#5, 0xFFFFFFFE#32), (2#5, 0x00000003#32)] = some (0xFFFFFFFF#32, 0xFFFFFFFA#32) := by decide

/-- M-6. -/
theorem test_multu :
    hiLo 0x00220019#32 [(1#5, 0xFFFFFFFF#32), (2#5, 0xFFFFFFFF#32)] = some (0xFFFFFFFE#32, 0x00000001#32) := by decide

/-- M-11. -/
theorem test_div_negative_divisor :
    hiLo 0x0022001A#32 [(1#5, 0x00000007#32), (2#5, 0xFFFFFFFE#32)] = some (0x00000001#32, 0xFFFFFFFD#32) := by decide

/-- M-13: the quotient that does not fit wraps. -/
theorem test_div_wraps :
    hiLo 0x0022001A#32 [(1#5, 0x80000000#32), (2#5, 0xFFFFFFFF#32)] = some (0x00000000#32, 0x80000000#32) := by decide

/-- M-16. -/
theorem test_divu :
    hiLo 0x0022001B#32 [(1#5, 0xFFFFFFF9#32), (2#5, 0x00000002#32)] = some (0x00000001#32, 0x7FFFFFFC#32) := by decide

/-- M-15, M-19: a division by zero goes on, and consumes a free value. -/
theorem test_div_by_zero :
    (run1 0x0022001A#32 (regs [(1#5, 5#32)])).map (fun t => (t.run, t.pc, t.draws)) = some (.running, 0x104#32, 1) ∧
    (run1 0x0022001B#32 (regs [(1#5, 7#32)])).map (fun t => (t.run, t.pc, t.draws)) = some (.running, 0x104#32, 1) := by decide

/-- M-20, M-21. -/
theorem test_mfhi_mflo :
    (run1 0x00001810#32 { regs [] with hi := 0x11111111#32, lo := 0x22222222#32 }).map (fun t => t.x 3#5) = some 0x11111111#32 ∧
    (run1 0x00001812#32 { regs [] with hi := 0x11111111#32, lo := 0x22222222#32 }).map (fun t => t.x 3#5) = some 0x22222222#32 := by decide

/-- M-22. -/
theorem test_mthi :
    hiLo 0x00200011#32 [(1#5, 0xCAFEBABE#32)] = some (0xCAFEBABE#32, 0x22222222#32) := by decide

/-- M-23. -/
theorem test_mtlo :
    hiLo 0x00200013#32 [(1#5, 0xCAFEBABE#32)] = some (0x11111111#32, 0xCAFEBABE#32) := by decide

/-- L-4. -/
theorem test_lb :
    loaded 0x80220002#32 0x00001000#32 = some 0xFFFFFFFE#32 := by decide

/-- L-5. -/
theorem test_lbu :
    loaded 0x90220002#32 0x00001000#32 = some 0x000000FE#32 := by decide

/-- L-7: the byte at the lower address is the high byte. -/
theorem test_lh :
    loaded 0x84220000#32 0x00001000#32 = some 0xFFFF807F#32 := by decide

/-- L-10. -/
theorem test_lhu :
    loaded 0x94220002#32 0x00001000#32 = some 0x0000FE01#32 := by decide

/-- L-14: the offset is sign-extended. -/
theorem test_lw :
    loaded 0x8C22FFFC#32 0x00001008#32 = some 0x12345678#32 := by decide

/-- L-15: the effective address wraps. -/
theorem test_lw_wraps :
    loaded 0x8C220008#32 0xFFFFFFFC#32 = some 0xCAFEF00D#32 := by decide

/-- L-22. -/
theorem test_sb :
    stored 0xA0220001#32 = some (0x80DDFE01#32, 0x12345678#32) := by decide

/-- L-24. -/
theorem test_sh :
    stored 0xA4220002#32 = some (0x807FCCDD#32, 0x12345678#32) := by decide

/-- L-27. -/
theorem test_sw :
    stored 0xAC220004#32 = some (0x807FFE01#32, 0xAABBCCDD#32) := by decide

/-- L-20. -/
theorem test_lw_unaligned :
    record 0x8C220002#32 (regs [(1#5, 0x00001000#32)]) =
      some (.trapped (.unalignedAccess .load), 0x00000010#32, 0x00000100#32, 0x00001002#32) := by decide

/-- L-29. -/
theorem test_sh_unaligned :
    record 0xA4220001#32 (regs [(1#5, 0x00001000#32)]) =
      some (.trapped (.unalignedAccess .store), 0x00000014#32, 0x00000100#32, 0x00001001#32) := by decide

/-- L-32. -/
theorem test_lw_unmapped :
    record 0x8C220000#32 { regs [(1#5, 0x2000#32)] with cfg := { Config.default with map := [⟨0, 0x2000, .ram, false⟩] } } =
      some (.trapped (.busError .data), 0x0000001C#32, 0x00000100#32, 0x00002000#32) := by decide

/-- L-37: alignment is checked before the map. -/
theorem test_lw_unaligned_before_unmapped :
    record 0x8C220001#32 { regs [(1#5, 0x2000#32)] with cfg := { Config.default with map := [⟨0, 0x2000, .ram, false⟩] } } =
      some (.trapped (.unalignedAccess .load), 0x00000010#32, 0x00000100#32, 0x00002001#32) := by decide

/-- C-3: taken to itself. -/
theorem test_beq :
    flow true 0x100#32 0x1000FFFF#32 [] = some (0x104#32, some 0x100#32, 0x0#32) ∧
    flow false 0x100#32 0x1000FFFF#32 [] = some (0x100#32, none, 0x0#32) := by decide

/-- C-6: the largest step back. -/
theorem test_bne :
    flow true 0x40000#32 0x14208000#32 [(1#5, 0x00000001#32)] = some (0x40004#32, some 0x20004#32, 0x0#32) ∧
    flow false 0x40000#32 0x14208000#32 [(1#5, 0x00000001#32)] = some (0x20004#32, none, 0x0#32) := by decide

/-- C-8. -/
theorem test_blez :
    flow true 0x100#32 0x18200004#32 [] = some (0x104#32, some 0x114#32, 0x0#32) ∧
    flow false 0x100#32 0x18200004#32 [] = some (0x114#32, none, 0x0#32) := by decide

/-- C-12. -/
theorem test_bgtz :
    flow true 0x100#32 0x1C200004#32 [] = some (0x104#32, none, 0x0#32) ∧
    flow false 0x100#32 0x1C200004#32 [] = some (0x104#32, none, 0x0#32) := by decide

/-- C-14. -/
theorem test_bltz :
    flow true 0x100#32 0x04200004#32 [(1#5, 0xFFFFFFFF#32)] = some (0x104#32, some 0x114#32, 0x0#32) ∧
    flow false 0x100#32 0x04200004#32 [(1#5, 0xFFFFFFFF#32)] = some (0x114#32, none, 0x0#32) := by decide

/-- C-17. -/
theorem test_bgez :
    flow true 0x100#32 0x04210004#32 [(1#5, 0x80000000#32)] = some (0x104#32, none, 0x0#32) ∧
    flow false 0x100#32 0x04210004#32 [(1#5, 0x80000000#32)] = some (0x104#32, none, 0x0#32) := by decide

/-- C-18: the link is written although the branch is not taken. -/
theorem test_bltzal :
    flow true 0x100#32 0x04300004#32 [(1#5, 0x00000005#32)] = some (0x104#32, none, 0x108#32) ∧
    flow false 0x100#32 0x04300004#32 [(1#5, 0x00000005#32)] = some (0x104#32, none, 0x104#32) := by decide

/-- C-31: the condition is read before the link is written. -/
theorem test_bltzal_31 :
    flow true 0x100#32 0x07F00004#32 [(31#5, 0xFFFFFFFF#32)] = some (0x104#32, some 0x114#32, 0x108#32) ∧
    flow false 0x100#32 0x07F00004#32 [(31#5, 0xFFFFFFFF#32)] = some (0x114#32, none, 0x104#32) := by decide

/-- C-20. -/
theorem test_bgezal :
    flow true 0x100#32 0x04110001#32 [] = some (0x104#32, some 0x108#32, 0x108#32) ∧
    flow false 0x100#32 0x04110001#32 [] = some (0x108#32, none, 0x104#32) := by decide

/-- C-23: the region is that of pc + 4. -/
theorem test_j :
    flow true 0xFFFFFFC#32 0x08000102#32 [] = some (0x10000000#32, some 0x10000408#32, 0x0#32) ∧
    flow false 0xFFFFFFC#32 0x08000102#32 [] = some (0x10000408#32, none, 0x0#32) := by decide

/-- C-25. -/
theorem test_jal :
    flow true 0x100#32 0x0C000100#32 [] = some (0x104#32, some 0x400#32, 0x108#32) ∧
    flow false 0x100#32 0x0C000100#32 [] = some (0x400#32, none, 0x104#32) := by decide

/-- C-26. -/
theorem test_jr :
    flow true 0x400#32 0x03E00008#32 [(31#5, 0x00000108#32)] = some (0x404#32, some 0x108#32, 0x108#32) ∧
    flow false 0x400#32 0x03E00008#32 [(31#5, 0x00000108#32)] = some (0x108#32, none, 0x108#32) := by decide

/-- C-28. -/
theorem test_jalr :
    flow true 0x100#32 0x0040F809#32 [(2#5, 0x00000400#32)] = some (0x104#32, some 0x400#32, 0x108#32) ∧
    flow false 0x100#32 0x0040F809#32 [(2#5, 0x00000400#32)] = some (0x400#32, none, 0x104#32) := by decide

/-- C-30: the target is checked and no link is written. -/
theorem test_jalr_unaligned :
    record 0x0040F809#32 (regs [(2#5, 0x00000401#32)]) =
      some (.trapped .unalignedJump, 0x00000010#32, 0x00000100#32, 0x00000401#32) := by decide

/-- C-29: the source is read before the link is written. -/
theorem test_jalr_same_register :
    (run1 0x00802009#32 (regs [(4#5, 0x400#32)])).map (fun t => (t.x 4#5, t.pendingTarget)) = some (0x108#32, some 0x400#32) := by decide

/-- C-32: a jump in the delay slot of a taken jump is refused. -/
theorem test_jump_in_delay_slot :
    asRefusal (exec (.j 0x80#26) { regs [] with pendingTarget := some 0x108#32 }) = some .controlInDelaySlot := by decide

/-- I-5. -/
theorem test_addi :
    value 0x20227FFF#32 [(1#5, 0x00000001#32)] 2#5 = some 0x00008000#32 := by decide

/-- I-3. -/
theorem test_addi_overflow :
    record 0x2022FFFF#32 (regs [(1#5, 0x80000000#32)]) =
      some (.trapped .overflow, 0x00000030#32, 0x00000100#32, 0x00000000#32) := by decide

/-- I-6. -/
theorem test_addiu :
    value 0x24220001#32 [(1#5, 0x7FFFFFFF#32)] 2#5 = some 0x80000000#32 := by decide

/-- I-10. -/
theorem test_slti :
    value 0x28220001#32 [(1#5, 0x80000000#32)] 2#5 = some 0x00000001#32 := by decide

/-- I-11: the sign-extended immediate is compared unsigned. -/
theorem test_sltiu :
    value 0x2C22FFFF#32 [(1#5, 0x00000001#32)] 2#5 = some 0x00000001#32 := by decide

/-- I-15. -/
theorem test_andi :
    value 0x3022FF00#32 [(1#5, 0x12345678#32)] 2#5 = some 0x00005600#32 := by decide

/-- I-18: the immediate is not sign-extended. -/
theorem test_ori :
    value 0x34028000#32 [] 2#5 = some 0x00008000#32 := by decide

/-- I-19. -/
theorem test_xori :
    value 0x3822FFFF#32 [(1#5, 0x12345678#32)] 2#5 = some 0x1234A987#32 := by decide

/-- I-20. -/
theorem test_lui :
    value 0x3C027FFF#32 [] 2#5 = some 0x7FFF0000#32 := by decide

/-- Y-4: the code field is ignored. -/
theorem test_syscall_halts :
    (run1 0x03FFFFCC#32 (regs [(2#5, 10#32)])).map (fun t => (t.run, t.pc, t.epc)) = some (.halted, 0x100#32, 0#32) := by decide

/-- Y-3. -/
theorem test_syscall_traps :
    record 0x0000000C#32 (regs []) =
      some (.trapped .syscall, 0x00000020#32, 0x00000100#32, 0x00000000#32) := by decide

/-- Y-5. -/
theorem test_break :
    record 0x000001CD#32 (regs []) =
      some (.trapped .brk, 0x00000024#32, 0x00000100#32, 0x00000000#32) := by decide

/-- Y-6. -/
theorem test_mtc0 :
    (run1 0x40817000#32 (regs [(1#5, 0x1234#32)])).map (fun t => t.epc) = some 0x1234#32 := by decide

/-- Y-6. -/
theorem test_mfc0 :
    (run1 0x40037000#32 { regs [] with epc := 0x1234#32 }).map (fun t => t.x 3#5) = some 0x1234#32 := by decide

/-- Y-10, Y-11: a register outside CP0_SET is refused. -/
theorem test_cp0_refused :
    asRefusal (step ((regs []).placeFetchWord 0x40024800#32)) = some (.cp0NotImplemented 9#5 0#3) ∧
    asRefusal (step ((regs []).placeFetchWord 0x40027001#32)) = some (.cp0NotImplemented 14#5 1#3) := by decide

/-- Y-7: the code replaces bits 6 to 2 of Cause only. -/
theorem test_cause_keeps_other_bits :
    record 0x00842820#32 { regs [(4#5, 0x7FFF0000#32)] with cause := 0xFFFFFFFF#32 } =
      some (.trapped .overflow, 0xFFFFFFB3#32, 0x00000100#32, 0x00000000#32) := by decide

/-- What the host asks: after reset the next step runs the word placed for it. -/
theorem test_with_fetch_word :
    (asNext (step (State.reset.withFetchWord 32 0x3C027FFF))).map (fun t => t.x 2#5) = some 0x7FFF0000#32 := by decide

/-! The pipelined core, one step each. -/

/-- A pipelined machine with forwarding, whose program is a run of NOPs. -/
def pipe : State := { State.reset with cfg := { Config.default with pipelined := true } }

/-- The slot of an instruction in ID/EX, its port values 0. -/
def inIdEx (pc : Word) (i : Instr) : Latch IdExSlot := .slot { pc := pc, payload := .inst i 0#32 0#32 }

/-- The slot of a word in IF/ID. -/
def inIfId (pc : Word) (w : Word) : Latch IfIdSlot := .slot { pc := pc, payload := .word w }

/-- LW $2,0($0) in ID/EX, ADD $3,$2,$2 in IF/ID (S2). -/
def loadThenUse : State := { pipe with idEx := inIdEx 0x100#32 (.lw 2#5 0#16 0#5), ifId := inIfId 0x104#32 0x00421820#32, pc := 0x108#32 }

/-- The same two with the LW in EX/MEM, both caches disabled. -/
def loadInMem : State :=
  { pipe with exMem := .slot { pc := 0x100#32, instr := .lw 2#5 0#16 0#5, result := none, memop := some (.load 0#32 .word false), dest := some 2#5 },
              pc := 0x108#32 }

/-- ADDU in EX/MEM with its result, ADDU in ID/EX, a NOP in IF/ID. -/
def busy : State :=
  { pipe with
    memWb := .slot { pc := 0xF4#32, instr := .addu 3#5 0#5 0#5, value := some 9#32, dest := some 3#5 },
    exMem := .slot { pc := 0xF8#32, instr := .addu 1#5 0#5 0#5, result := some 5#32, memop := none, dest := some 1#5 },
    idEx := inIdEx 0xFC#32 (.addu 2#5 1#5 3#5), ifId := inIfId 0x100#32 0x00000000#32, pc := 0x104#32 }

/-- J 0x108 in ID/EX with its delay slot in IF/ID. -/
def jumping (ds : Bool) : State :=
  { pipe with cfg := { pipe.cfg with delaySlot := ds }, idEx := inIdEx 0x100#32 (.j 0x42#26), ifId := inIfId 0x104#32 0x20010001#32, pc := 0x108#32 }

/-- S2, R352: a bubble enters ID/EX, IF/ID and PC are held. -/
theorem test_load_use :
    (asNext (step loadThenUse)).map (fun t => (t.idEx, t.ifId, t.pc)) = some (.bubble, loadThenUse.ifId, 0x108#32) := by decide

/-- R331: EX takes the result in EX/MEM for $1 and the value in MEM/WB for $3. -/
theorem test_forwarding :
    (asNext (step busy)).map (fun t => t.exMem) =
      some (.slot { pc := 0xFC#32, instr := .addu 2#5 1#5 3#5, result := some 14#32, memop := none, dest := some 2#5 }) := by decide

/-- S3, R340: with a delay slot the instruction in IF/ID goes on, without it is flushed. -/
theorem test_taken_jump :
    (asNext (step (jumping true))).map (fun t => (t.pc, t.ifId, t.exDelaySlot)) = some (0x108#32, .bubble, true) ∧
    (asNext (step (jumping false))).map (fun t => (t.pc, t.ifId, t.idEx)) = some (0x108#32, .bubble, .bubble) := by decide

/-- R337: a data access holds IF when both caches are disabled. -/
theorem test_structural_stall :
    (asNext (step loadInMem)).map (fun t => (t.pc, t.ifId)) = some (0x108#32, .bubble) := by decide

/-! The caches. -/

/-- One line of two words, blocks 0 (addresses 0 and 4) and 1 (8 and 12), of the vectors K-4 to K-6. -/
def lineOfTwo (p : WritePolicy) : CacheCfg := { enabled := true, sets := 1, words := 2, ways := 1, replacement := .lru, writePolicy := p }

/-- The memory of the vectors K-4 to K-6. -/
def blocks : Memory :=
  (((Memory.setWord [] 0#32 0xAAAA0000#32).setWord 4#32 0xBBBB0004#32).setWord 8#32 0xCCCC0008#32).setWord 12#32 0xDDDD000C#32

/-- The cache of K-4 to K-6 after its first write, of 0x1234 at 4. -/
def written (p : WritePolicy) : CacheMem := (Cache.reset (lineOfTwo p)).write (lineOfTwo p) .data blocks 4#32 0x1234#32 .word

/-- Hits, misses, reads and writes. -/
def counters (k : Cache) : Nat × Nat × Nat × Nat := (k.stats.hits, k.stats.misses, k.stats.memReads, k.stats.memWrites)

/-- K-4, steps 1 and 3: the store stays in the line until the line is evicted. -/
theorem test_write_back :
    counters (written .writeBack).1 = (0, 1, 1, 0) ∧ (written .writeBack).2.word 4#32 = 0xBBBB0004#32 ∧
    counters ((written .writeBack).1.readWord (lineOfTwo .writeBack) .data (written .writeBack).2 8#32).2.1 = (0, 2, 2, 1) ∧
    ((written .writeBack).1.readWord (lineOfTwo .writeBack) .data (written .writeBack).2 8#32).2.2.word 4#32 = 0x1234#32 := by decide

/-- K-5, step 1. -/
theorem test_write_through_no_alloc :
    counters (written .writeThroughNoAlloc).1 = (0, 1, 0, 1) ∧ (written .writeThroughNoAlloc).2.word 4#32 = 0x1234#32 ∧
    ((written .writeThroughNoAlloc).1.line 0 0).valid = false := by decide

/-- K-6, step 1. -/
theorem test_write_through_alloc :
    counters (written .writeThroughAlloc).1 = (0, 1, 1, 1) ∧ (written .writeThroughAlloc).2.word 4#32 = 0x1234#32 ∧
    ((written .writeThroughAlloc).1.line 0 0).data = [0xAAAA0000#32, 0x1234#32] := by decide

/-- K-8. -/
theorem test_address_split :
    blockOffset { oneLine with sets := 4, words := 2 } 0x1234#32 = 1 ∧ setIndex { oneLine with sets := 4, words := 2 } 0x1234#32 = 2 ∧
    tagIndex { oneLine with sets := 4, words := 2 } 0x1234#32 = 145 ∧ lineBase { oneLine with sets := 4, words := 2 } 145 2 = 0x1230#32 := by decide

/-- K-9: a byte merged into its word. -/
theorem test_merge_byte :
    mergeBytes 0x807FFE01#32 0x1001#32 0xDD#32 .byte = 0x80DDFE01#32 := by decide

/-- K-7, R120: a flush writes the dirty line back and invalidates it. -/
theorem test_flush :
    ((written .writeBack).1.flush (lineOfTwo .writeBack) (written .writeBack).2).2.word 4#32 = 0x1234#32 ∧
    (((written .writeBack).1.flush (lineOfTwo .writeBack) (written .writeBack).2).1.line 0 0).valid = false := by decide

/-! The host and the assembler. -/

/-- S6. -/
theorem test_load_range :
    ((State.reset.loadRange 0x1000#32 [1#32, 2#32, 3#32]).map (fun t => (t.mem.word 0x1000#32, t.mem.word 0x1004#32, t.mem.word 0x1008#32))) =
      some (1#32, 2#32, 3#32) := by decide

/-- R71: the lines of the source's scenario, in each base and with an empty line, and a line that is no integer. -/
theorem test_load_range_text :
    wordsOfLines (linesOf ['0', 'x', '1', '\n', '\n', '0', 'b', '1', '0', '\n', '0', '1', '7', '\n', '4', '2', '\n']) =
      some [1#32, 2#32, 15#32, 42#32] ∧ wordsOfLines (linesOf ['1', '\n', '0', 'x']) = none ∧
    (State.reset.loadRangeText 0x1002#32 ['7']).map (fun t => t.mem.word 0x1000#32) = some 7#32 := by decide

/-- R71: one word a line, addresses ascending. -/
theorem test_dump_range :
    State.dumpRange 0x1000#32 2 { State.reset with mem := data } = some "0x807FFE01\n0x12345678\n" := by decide

/-- R62, R63: the device of a range sees the offset in the range, and who reads. -/
theorem test_peripheral_offset :
    Range.offset ⟨0x2000, 0x3000, .peripheral 0, true⟩ 0x2004#32 = 4 ∧
    State.probe 0x2004#32 .word { State.reset with cfg := { Config.default with map := smallMap } } =
      some (Config.periphRead 0 0 4 .word .probe) := ⟨by decide, rfl⟩

/-- R177, R178, 95_test_vectors.md section 1.3. -/
theorem test_li :
    (pseudoLi 4#5 0xFFFFFFFF#32).map encode = [0x2404FFFF#32] ∧ (pseudoLi 4#5 0xFFFF8000#32).map encode = [0x24048000#32] ∧
    (pseudoLi 4#5 0xFFFF#32).map encode = [0x3404FFFF#32] ∧ (pseudoLi 4#5 0x10000#32).map encode = [0x3C040001#32] ∧
    (pseudoLi 4#5 0x12345678#32).map encode = [0x3C041234#32, 0x34845678#32] ∧
    (pseudoLa 4#5 0x12348000#32).map encode = [0x3C041234#32, 0x34848000#32] ∧ (pseudoMove 3#5 1#5).map encode = [0x00011821#32] := by decide

/-- R173, 95_test_vectors.md section 1.3: B from 0x100 to 0x110, J from 0x100 to 0x108. -/
theorem test_label_operands :
    branchOperand 0x100#32 0x110#32 = some 3#16 ∧ jumpOperand 0x100#32 0x108#32 = some 0x42#26 ∧ branchOperand 0x100#32 0x102#32 = none := by decide

/-- R173, R10: the distance of a branch wraps at 2^32 both ways. -/
theorem test_label_wraps :
    branchOperand 0xFFFFFFFC#32 0x10#32 = some 4#16 ∧ branchOperand 0#32 0xFFFFFFFC#32 = some 0xFFFE#16 := by decide

/-- R330 step 6: the store in EX/MEM holds the low bits of its register. -/
theorem test_store_value :
    opSb 0#32 0x12345678#32 4#16 = .done { memop := some (.store 4#32 .byte 0x78#32) } ∧
    opSh 0#32 0x12345678#32 4#16 = .done { memop := some (.store 4#32 .half 0x5678#32) } := by decide

/-- R154, R172, vector Y-5: a code in decimal, a zero-extended immediate in hexadecimal. -/
theorem test_disassemble :
    disassemble 0x100#32 (.brk 7#20) = "BREAK 7" ∧ disassemble 0x100#32 (.lui 1#5 0x7FFF#16) = "LUI $1,0x7FFF" := by decide


/-! Witnesses. For each statement with hypotheses, a concrete state and operands that meet all of them; where a statement has several
clauses, one for each, at a boundary of its range. -/

/-- The machine after reset with the word `w` placed where it fetches. -/
def at1 (w : Word) : State := State.reset.placeFetchWord w

/-- A machine with a cached RAM, with the data cache of K-4 to K-6 and an instruction cache of the same form, right after reset. -/
def cachedConfig (p : WritePolicy) : Config := { Config.default with iCache := lineOfTwo p, dCache := lineOfTwo p }

def cached (p : WritePolicy) : State := State.resetWith (cachedConfig p) blocks

/-- A machine with the RAM and the peripheral of `smallMap`. -/
def mapped (xs : List (Reg × Word)) : State := { regs xs with cfg := { Config.default with map := smallMap } }

theorem blocks_wf : blocks.wf = true := by decide

/-- An address that some range holds is in RAM where the range of the map is. -/
theorem inRam_of {s : State} {a : Word} (r : Range) (h : rangeOf s.cfg a = some r) (hb : r.backend = .ram) : s.inRam a := ⟨r, h, hb⟩

theorem dataInv_uncached {s : State} (hc : s.cfg.wellFormed = true) (hm : s.mem.wf = true) (hi : s.cfg.iCache.enabled = false)
    (hd : s.cfg.dCache.enabled = false) : DataInv s :=
  ⟨hc, hm, ⟨fun h => by simp [hi] at h, fun h => by simp [hd] at h⟩⟩

theorem dataInv_cached (p : WritePolicy) : DataInv (cached p) := by
  have wfc : (cachedConfig p).wellFormed = true := by cases p <;> decide
  have en : (lineOfTwo p).enabled = true := rfl
  obtain ⟨inv, clean, notDirty⟩ := CacheInv.ofReset (cachedConfig p) en blocks
  exact ⟨wfc, blocks_wf, ⟨fun _ => ⟨inv, notDirty⟩, fun _ => ⟨inv, clean⟩⟩⟩

/-- The invariant of the machine, where every latch is empty. -/
theorem machineInv_empty {s : State} (hc : s.cfg.wellFormed = true) (hm : s.mem.wf = true) (h0 : s.gpr[0] = 0#32)
    (hp : s.pc.toNat % 4 = 0) (ht : s.pendingTarget = none) (hr : s.pendingRedirect = none) (hx : s.exDelaySlot = false)
    (h1 : s.ifId = .bubble) (h2 : s.idEx = .bubble) (h3 : s.exMem = .bubble) (h4 : s.memWb = .bubble) : MachineInv s :=
  ⟨hc, hm, h0, ⟨hp, by simp [OptAligned, ht], by simp [OptAligned, hr], by simp [h1], by simp [h2], by simp [h3], by simp [h4]⟩,
    fun _ => ⟨ht, hr, hx⟩⟩

def asOk : Access → Option (Word × State)
  | .ok w s => some (w, s)
  | .trap _ _ => none

theorem exists_ok {r : Access} (p : Word × State → Bool) (h : (asOk r).any p = true) : ∃ w s, r = .ok w s ∧ p (w, s) = true := by
  cases r with
  | ok w s => exact ⟨w, s, rfl, by simpa [asOk] using h⟩
  | trap _ _ => simp [asOk] at h

/-- Running, single-cycle, well formed, not at its halt address, PC aligned. -/
def fetchReady (s : State) : Prop :=
  s.run = .running ∧ s.cfg.wellFormed = true ∧ s.cfg.pipelined = false ∧ s.cfg.haltAddr ≠ some s.pc ∧ s.pc.toNat % 4 = 0

/-! Encoding, reset and the step. -/

theorem witness_DecodeAndEncodeAreInverse : decode 0x8C220004#32 = some (.lw 2#5 4#16 1#5) ∧ decode 0xFFFFFFFF#32 = none := by decide

theorem witness_TableRowsAreDisjoint :
    (opcodeTable.any fun r => r.hits 0x8C220004#32) = true ∧ (opcodeTable.all fun r => !r.hits 0xFFFFFFFF#32) = true := by decide

theorem witness_IllFormedConfigurationIsRefused :
    State.reset.run = .running ∧ refusesConfig Config.default = false ∧
    refusesConfig { Config.default with resetPc := 2#32 } = true := by decide

/-- The two clauses: a fetch through an instruction cache, and a fetch from RAM. -/
theorem witness_StepRunsTheDecodedInstruction :
    (fetchReady (cached .writeBack) ∧
      ∃ w s', State.fetchWord (cached .writeBack).mem (cached .writeBack).pc { cached .writeBack with cycles := 1, events := [] } = .ok w s' ∧
        decide (w = encode (.sll 0#5 0#5 0#5)) = true) ∧
    (fetchReady (at1 0x00221821#32) ∧
      rangeOf (at1 0x00221821#32).cfg (at1 0x00221821#32).pc = some ⟨0, 2 ^ 32, .ram, false⟩ ∧
      (at1 0x00221821#32).cfg.iCache.enabled = false ∧
      [(at1 0x00221821#32).mem.byte 0x100#32, (at1 0x00221821#32).mem.byte 0x101#32, (at1 0x00221821#32).mem.byte 0x102#32,
        (at1 0x00221821#32).mem.byte 0x103#32] = encodeBytes (.addu 3#5 1#5 2#5)) :=
  ⟨⟨⟨rfl, by decide, rfl, by decide, by decide⟩, exists_ok (fun o => decide (o.1 = encode (.sll 0#5 0#5 0#5))) (by decide)⟩,
   ⟨rfl, by decide, rfl, by decide, by decide⟩, by decide, rfl, by decide⟩

/-- The pipelined machine with `smallMap` at a PC just past the map; with the fetch fault, and with a word of no row, in IF/ID; with each carried
fault in ID/EX. -/
def pipePastMap : State := { pipe with cfg := { pipe.cfg with map := smallMap }, pc := 0x3000#32 }

def faultInIfId : State := { pipe with ifId := .slot { pc := 0x100#32, payload := .busError }, pc := 0x104#32 }

def unknownInIfId : State := { pipe with ifId := inIfId 0x100#32 0xFFFFFFFF#32, pc := 0x104#32 }

def carrying (k : TrapKind) : State := { pipe with idEx := .slot { pc := 0x100#32, payload := .fault k } }

/-- A PC just past the map, and a word of no row; on the pipelined core each stage on its way, and both faults in EX. -/
theorem witness_FetchAndDecodeFaultsTrap :
    (fetchReady { mapped [] with pc := 0x3000#32 } ∧ rangeOf (mapped []).cfg 0x3000#32 = none) ∧
    (fetchReady (at1 0xFFFFFFFF#32) ∧
      ∃ w s', State.fetchWord (at1 0xFFFFFFFF#32).mem (at1 0xFFFFFFFF#32).pc { at1 0xFFFFFFFF#32 with cycles := 1, events := [] } = .ok w s' ∧
        decide (decode w = none) = true) ∧
    (pipePastMap.run = .running ∧ pipePastMap.cfg.wellFormed = true ∧ pipePastMap.cfg.pipelined = true ∧ pipePastMap.pc.toNat % 4 = 0 ∧
      rangeOf pipePastMap.cfg pipePastMap.pc = none ∧ pipePastMap.exMem = .bubble ∧ pipePastMap.idEx = .bubble ∧ pipePastMap.ifId = .bubble) ∧
    (faultInIfId.cfg.wellFormed = true ∧ (∃ d, faultInIfId.ifId = .slot d ∧ d.payload = .busError) ∧ faultInIfId.idEx = .bubble ∧
      ∃ t, step faultInIfId = .next t ∧ decide (t.run = .running) = true) ∧
    ((∃ d, unknownInIfId.ifId = .slot d ∧ d.payload = .word 0xFFFFFFFF#32) ∧ decode 0xFFFFFFFF#32 = none ∧
      ∃ t, step unknownInIfId = .next t ∧ decide (t.run = .running) = true) ∧
    (∀ k, CarriedKind k → ∃ q mw m, (carrying k).idEx = .slot q ∧ q.payload = .fault k ∧ (carrying k).cfg.haltAddr ≠ some q.pc ∧
      memStage (carrying k).writeBack = .ok mw m) :=
  ⟨⟨⟨rfl, by decide, rfl, by decide, by decide⟩, by decide⟩,
   ⟨⟨rfl, by decide, rfl, by decide, by decide⟩, exists_ok (fun o => decide (decode o.1 = none)) (by decide)⟩,
   ⟨rfl, by decide, rfl, by decide, by decide, rfl, rfl, rfl⟩, ⟨by decide, ⟨_, rfl, rfl⟩, rfl, exists_next _ (by decide)⟩,
   ⟨⟨_, rfl, rfl⟩, by decide, exists_next _ (by decide)⟩, fun _ _ => ⟨_, _, _, rfl, rfl, nofun, rfl⟩⟩

def haltHere : State := { State.reset with cfg := { Config.default with haltAddr := some 0x100#32 } }

/-- A misaligned load in EX/MEM; a halt in EX behind a result in MEM. -/
def trapInMem : State :=
  { pipe with exMem := .slot { pc := 0x100#32, instr := .lw 2#5 2#16 0#5, result := none, memop := some (.load 2#32 .word false), dest := some 2#5 } }

def haltInEx : State :=
  { pipe with idEx := .slot { pc := 0x100#32, payload := .inst (.syscall 0#20) 10#32 0#32 },
              exMem := .slot { pc := 0xFC#32, instr := .addu 1#5 0#5 0#5, result := some 5#32, memop := none, dest := some 1#5 } }

/-- An overflow in EX behind a result in MEM and a value in MEM/WB for the same register. -/
def trapInEx : State :=
  { pipe with idEx := .slot { pc := 0x100#32, payload := .inst (.add 2#5 4#5 5#5) 0x7FFFFFFF#32 1#32 },
              exMem := .slot { pc := 0xFC#32, instr := .addu 1#5 0#5 0#5, result := some 5#32, memop := none, dest := some 1#5 },
              memWb := .slot { pc := 0xF8#32, instr := .addu 1#5 0#5 0#5, value := some 6#32, dest := some 1#5 } }

/-- R42, R348, R362: the notifications of a cycle that stops in EX: the execution, the record of the trap, WB, the drain, PC. -/
theorem test_stop_events :
    (asNext (step trapInEx)).map (fun t => t.events) =
      some [.execute 0x100#32 (.add 2#5 4#5 5#5), .register ⟨.cp0, 14, 0#32, 0x100#32⟩, .register ⟨.cp0, 13, 0#32, 0x30#32⟩,
        .register ⟨.gp, 1, 0#32, 6#32⟩, .register ⟨.gp, 1, 6#32, 5#32⟩, .register ⟨.pc, 0, 0x100#32, 0x100#32⟩] := by
  decide

/-- R308: the notifications of a store, `SW $1,64($0)`, on the single-cycle core: the fetch, the execution, the write of memory, PC. -/
theorem test_store_events :
    (asNext (step (at1 0xAC010040#32))).map (fun t => t.events) =
      some [.fetch 0x100#32 0xAC010040#32, .execute 0x100#32 (.sw 1#5 0x40#16 0#5), .memory 0x40#32 .word 0#32,
        .register ⟨.pc, 0, 0x100#32, 0x104#32⟩] := by
  decide

/-- R42, R362: the notifications of a cycle with an instruction in each stage, by stage: IF, EX, MEM, WB, and PC last; both caches are
enabled, so that the store does not hold the fetch (R337). -/
theorem test_stage_events :
    (asNext (step { State.resetWith { cachedConfig .writeBack with pipelined := true } blocks with
        idEx := .slot { pc := 0xFC#32, payload := .inst (.mthi 1#5) 7#32 0#32 },
        exMem := .slot { pc := 0xF8#32, instr := .sw 2#5 8#16 0#5, result := none, memop := some (.store 8#32 .word 5#32), dest := none },
        memWb := .slot { pc := 0xF4#32, instr := .addu 3#5 0#5 0#5, value := some 9#32, dest := some 3#5 } })).map (fun t => t.events) =
      some [.fetch 0x100#32 0#32, .execute 0xFC#32 (.mthi 1#5), .register ⟨.hi, 0, 0#32, 7#32⟩, .memory 8#32 .word 5#32,
        .register ⟨.gp, 3, 0#32, 9#32⟩, .register ⟨.pc, 0, 0x100#32, 0x104#32⟩] := by
  decide

/-- R77, R404: the launch fills the symbol table and fixes `HALT_ADDR` by `_halt`; a name defined twice is a diagnostic. -/
theorem test_symbols :
    (State.launch Config.default [] [("a", 1#32), ("_halt", 0x110#32)] 0x200#32).map (fun s => (s.symbols, s.cfg.haltAddr, s.pc)) =
      some ([("a", 1#32), ("_halt", 0x110#32)], some 0x110#32, 0x200#32) ∧
    State.launch Config.default [] [("_halt", 0x110#32), ("a", 1#32), ("_halt", 0x120#32)] 0x200#32 = none := by
  decide

/-- The pipelined machine with a carried fault in ID/EX at its halt address, behind a result in MEM. -/
def haltBeforeFault : State :=
  { haltInEx with cfg := { haltInEx.cfg with haltAddr := some 0x100#32 }, idEx := .slot { pc := 0x100#32, payload := .fault .unsupportedInstruction } }

theorem witness_HaltAddressStopsBeforeTheFetch :
    (haltHere.run = .running ∧ haltHere.cfg.wellFormed = true ∧ haltHere.cfg.pipelined = false ∧ haltHere.cfg.haltAddr = some haltHere.pc) ∧
    (haltBeforeFault.run = .running ∧ haltBeforeFault.cfg.wellFormed = true ∧ haltBeforeFault.cfg.pipelined = true ∧
      ∃ q mw m, haltBeforeFault.idEx = .slot q ∧ haltBeforeFault.cfg.haltAddr = some q.pc ∧ memStage haltBeforeFault.writeBack = .ok mw m) :=
  ⟨by decide, rfl, by decide, rfl, _, _, _, rfl, rfl, rfl⟩

theorem witness_StoppedMachineStaysAsItIs :
    State.reset.halt.run ≠ .running ∧ (State.reset.takeTrap 0x100#32 .overflow none).run ≠ .running := by decide

/-- Also of StepsKeepTheConfiguration: both cores take a step. -/
theorem witness_EveryRunningStepCountsOneCycle :
    (∃ t, step State.reset = .next t ∧ decide (t.cycles = 1) = true) ∧ (∃ t, step busy = .next t ∧ decide (t.cycles = 1) = true) :=
  ⟨exists_next _ (by decide), exists_next _ (by decide)⟩

theorem witness_StepKeepsMachineInvariant :
    (MachineInv State.reset ∧ ∃ t, step State.reset = .next t ∧ decide (t.pc = 0x104#32) = true) ∧
    (MachineInv pipe ∧ ∃ t, step pipe = .next t ∧ decide (t.pc = 0x104#32) = true) :=
  ⟨⟨machineInv_empty (by decide) (by decide) rfl (by decide) rfl rfl rfl rfl rfl rfl rfl, exists_next _ (by decide)⟩,
   ⟨machineInv_empty (by decide) (by decide) rfl (by decide) rfl rfl rfl rfl rfl rfl rfl, exists_next _ (by decide)⟩⟩

theorem witness_ResetMeetsTheInvariants : (cachedConfig .writeBack).wellFormed = true ∧ blocks.wf = true := by decide

/-- A machine that goes on, one refused in a delay slot, one refused for a Coprocessor 0 register. -/
theorem witness_StepGoesOnFromTheInvariant :
    MachineInv State.reset ∧
    (MachineInv { at1 0x08000080#32 with pendingTarget := some 0x108#32 } ∧
      asRefusal (step { at1 0x08000080#32 with pendingTarget := some 0x108#32 }) = some .controlInDelaySlot) ∧
    (MachineInv (at1 0x40024800#32) ∧ asRefusal (step (at1 0x40024800#32)) = some (.cp0NotImplemented 9#5 0#3)) := by
  refine ⟨machineInv_empty (by decide) (by decide) rfl (by decide) rfl rfl rfl rfl rfl rfl rfl, ⟨⟨by decide, by decide, rfl, ?_, ?_⟩, by decide⟩,
    machineInv_empty (by decide) (by decide) rfl (by decide) rfl rfl rfl rfl rfl rfl rfl, by decide⟩
  · refine ⟨by decide, ?_, ?_, ?_, ?_, ?_, ?_⟩ <;> intro q h <;> cases h
    decide
  · intro h
    exact absurd h (by decide)

/-- MTHI in EX with a value for register 3 in MEM/WB. -/
def hiBeforeWb : State :=
  { pipe with memWb := .slot { pc := 0xF4#32, instr := .addu 3#5 0#5 0#5, value := some 9#32, dest := some 3#5 },
              idEx := .slot { pc := 0x100#32, payload := .inst (.mthi 1#5) 7#32 0#32 }, pc := 0x104#32 }

/-- A general register (also 31), PC, and a control register, each with its notification; on the single-cycle core a write of the value that the
register holds, one to register 0, one of HI and LO, a store, a trap with an address and a halt; on the pipelined core a write of WB and one of HI in
EX in one cycle, a stop in MEM, a trap in EX with WB and the drain, and a halt in EX. -/
theorem witness_EveryRegisterWriteIsNotifiedOnce :
    (∃ t, step (at1 0x0C000100#32) = .next t ∧
      decide (eventsOf .gp 31 t.events = [⟨.gp, 31, 0#32, 0x108#32⟩] ∧ eventsOf .pc 0 t.events = [⟨.pc, 0, 0x100#32, 0x104#32⟩]) = true) ∧
    (∃ t, step (at1 0x0000000C#32) = .next t ∧ decide (eventsOf .cp0 14 t.events = [⟨.cp0, 14, 0#32, 0x100#32⟩]) = true) ∧
    (∃ t, exec (.addu 3#5 0#5 0#5) State.reset = .next t ∧
      decide (t.run = .running ∧ t.events = [.register ⟨.gp, 3, 0#32, 0#32⟩, .register ⟨.pc, 0, 0x100#32, 0x104#32⟩]) = true) ∧
    (∃ t, exec (.addu 0#5 1#5 1#5) State.reset = .next t ∧ decide (t.run = .running ∧ t.events = [.register ⟨.pc, 0, 0x100#32, 0x104#32⟩]) = true) ∧
    (∃ t, exec (.mult 1#5 1#5) (regs [(1#5, 2#32)]) = .next t ∧
      decide (t.run = .running ∧ t.events = [.register ⟨.hi, 0, 0#32, 0#32⟩, .register ⟨.lo, 0, 0#32, 4#32⟩, .register ⟨.pc, 0, 0x100#32, 0x104#32⟩]) = true) ∧
    (∃ t, step hiBeforeWb = .next t ∧
      decide (t.run = .running ∧ t.events = [.fetch 0x104#32 0#32, .execute 0x100#32 (.mthi 1#5), .register ⟨.hi, 0, 0#32, 7#32⟩,
        .register ⟨.gp, 3, 0#32, 9#32⟩, .register ⟨.pc, 0, 0x104#32, 0x108#32⟩] ∧
        t.ifId = .slot { pc := 0x104#32, payload := .word 0#32 } ∧ t.ifId ≠ hiBeforeWb.ifId) = true) ∧
    (∃ t, exec (.sw 1#5 8#16 0#5) State.reset = .next t ∧
      decide (t.run = .running ∧ t.events = [.memory 8#32 .word 0#32, .register ⟨.pc, 0, 0x100#32, 0x104#32⟩]) = true) ∧
    (∃ t, exec (.lw 1#5 2#16 0#5) State.reset = .next t ∧ decide (t.run = .trapped (.unalignedAccess .load) ∧
      t.events = [.register ⟨.cp0, 14, 0#32, 0x100#32⟩, .register ⟨.cp0, 13, 0#32, 0x10#32⟩, .register ⟨.cp0, 8, 0#32, 2#32⟩,
        .register ⟨.pc, 0, 0x100#32, 0x100#32⟩]) = true) ∧
    (∃ t, exec (.syscall 0#20) (regs [(2#5, 10#32)]) = .next t ∧ decide (t.run = .halted ∧ t.events = []) = true) ∧
    ((∃ pc k a, memStage trapInMem.writeBack = .trap pc k a) ∧ ∃ t, step trapInMem = .next t ∧ decide (t.run ≠ .running ∧
      t.events = [.register ⟨.cp0, 14, 0#32, 0x100#32⟩, .register ⟨.cp0, 13, 0#32, 0x10#32⟩, .register ⟨.cp0, 8, 0#32, 2#32⟩, .register ⟨.pc, 0, trapInMem.pc, 0x100#32⟩]) = true) ∧
    ((∃ mw m, memStage trapInEx.writeBack = .ok mw m) ∧ ∃ t, step trapInEx = .next t ∧ decide (t.run = .trapped .overflow) = true) ∧
    ((∃ mw m, memStage haltInEx.writeBack = .ok mw m) ∧ ∃ t, step haltInEx = .next t ∧ decide (t.run = .halted ∧
      t.events = [.execute 0x100#32 (.syscall 0#20), .register ⟨.gp, 1, 0#32, 5#32⟩, .register ⟨.pc, 0, haltInEx.pc, 0x100#32⟩]) = true) :=
  ⟨exists_next _ (by decide), exists_next _ (by decide), exists_next _ (by decide), exists_next _ (by decide), exists_next _ (by decide),
   exists_next _ (by decide), exists_next _ (by decide), exists_next _ (by decide), exists_next _ (by decide), ⟨⟨_, _, _, rfl⟩, exists_next _ (by decide)⟩,
   ⟨⟨_, _, rfl⟩, exists_next _ (by decide)⟩, ⟨_, _, rfl⟩, exists_next _ (by decide)⟩

/-- An instruction that writes HI, and MTC0 of each of the four registers. -/
theorem witness_SpecialRegistersAreWrittenOnlyByTheirInstructions :
    (∃ t, exec (.mthi 1#5) (regs [(1#5, 7#32)]) = .next t ∧ decide (t.hi = 7#32) = true) ∧
    (∃ t, exec (.mtc0 1#5 12#5 0#3) (regs [(1#5, 7#32)]) = .next t ∧ decide (t.cp0Status = 7#32) = true) ∧
    (∃ t, exec (.mtc0 1#5 14#5 0#3) (regs [(1#5, 7#32)]) = .next t ∧ decide (t.epc = 7#32 ∧ t.run = .running) = true) ∧
    (∃ t, exec (.mtc0 1#5 13#5 0#3) (regs [(1#5, 7#32)]) = .next t ∧ decide (t.cause = 7#32 ∧ t.run = .running) = true) ∧
    (∃ t, exec (.mtc0 1#5 8#5 0#3) (regs [(1#5, 7#32)]) = .next t ∧ decide (t.badVAddr = 7#32 ∧ t.run = .running) = true) :=
  ⟨exists_next _ (by decide), exists_next _ (by decide), exists_next _ (by decide), exists_next _ (by decide), exists_next _ (by decide)⟩

theorem witness_StatusHasNoEffect :
    (∀ rt, Instr.addu 1#5 2#5 3#5 ≠ .mfc0 rt 12#5 0#3) ∧ (∀ rt, Instr.addu 1#5 2#5 3#5 ≠ .mtc0 rt 12#5 0#3) := by
  constructor <;> intro rt h <;> cases h

/-! Traps. -/

theorem witness_TrapChangesNothingElse :
    State.reset.run = .running ∧ ∃ t, exec (.brk 0#20) State.reset = .next t ∧ decide (t.run = .trapped .brk) = true :=
  ⟨rfl, exists_next _ (by decide)⟩

theorem witness_PipelinedStopIsPrecise :
    (trapInMem.run = .running ∧ trapInMem.cfg.wellFormed = true ∧ trapInMem.cfg.pipelined = true ∧
      ∃ t, step trapInMem = .next t ∧ decide (t.run = .trapped (.unalignedAccess .load) ∧ t.epc = 0x100#32 ∧ t.badVAddr = 2#32) = true) ∧
    (∃ t, step haltInEx = .next t ∧ decide (t.run = .halted ∧ t.pc = 0x100#32 ∧ t.x 1#5 = 5#32) = true) ∧
    (∃ t, step trapInEx = .next t ∧ decide (t.run = .trapped .overflow ∧ t.epc = 0x100#32 ∧ t.badVAddr = 0#32 ∧ t.x 1#5 = 5#32) = true) ∧
    (∃ t, step (carrying (.busError .fetch)) = .next t ∧
      decide (t.run = .trapped (.busError .fetch) ∧ t.epc = 0x100#32 ∧ t.badVAddr = 0x100#32) = true) ∧
    (∃ t, step (carrying .unsupportedInstruction) = .next t ∧ decide (t.run = .trapped .unsupportedInstruction ∧ t.epc = 0x100#32) = true) :=
  ⟨⟨rfl, by decide, rfl, exists_next _ (by decide)⟩, exists_next _ (by decide), exists_next _ (by decide), exists_next _ (by decide),
   exists_next _ (by decide)⟩

/-! Arithmetic, logic, comparison, shift. -/

/-- The last sum that fits, the first that does not, and the same below zero. -/
theorem witness_SignedOverflowTraps :
    (let s := regs [(1#5, 0x7FFFFFFE#32), (2#5, 1#32)]
     (s.x 1#5).toInt + (s.x 2#5).toInt = 2 ^ 31 - 1) ∧
    (let s := regs [(1#5, 0x7FFFFFFF#32), (2#5, 1#32)]
     (s.x 1#5).toInt + (s.x 2#5).toInt = 2 ^ 31) ∧
    (let s := regs [(1#5, 0x80000001#32), (2#5, 1#32)]
     (s.x 1#5).toInt - (s.x 2#5).toInt = -(2 ^ 31)) ∧
    (let s := regs [(1#5, 0x80000000#32)]
     (s.x 1#5).toInt + (0xFFFF#16 : Imm).toInt = -(2 ^ 31) - 1) := by
  decide

theorem witness_WrappingArithmeticNeverTraps :
    ∃ (i : Instr) (dest : Reg) (exact : Int),
      (∃ rs rt, i = .addu dest rs rt ∧ exact = (((regs [(1#5, 0xFFFFFFFF#32)]).x rs).toNat : Int) + ((regs [(1#5, 0xFFFFFFFF#32)]).x rt).toNat) ∧
      exact ≥ 2 ^ 32 :=
  ⟨.addu 3#5 1#5 1#5, 3#5, _, ⟨1#5, 1#5, rfl, rfl⟩, by decide⟩

theorem witness_BitwiseLogicIsPerBit :
    ∃ (i : Instr) (dest : Reg) (bit : Nat → Bool),
      ∃ rs imm, i = .andi dest rs imm ∧ bit = fun k => (State.reset.x rs).getLsbD k && (decide (k < 16) && imm.getLsbD k) :=
  ⟨.andi 0#5 1#5 0x8000#16, 0#5, _, 1#5, 0x8000#16, rfl, rfl⟩

/-- Both sides of SLTIU at the largest immediate that is not negative and the smallest that is. -/
theorem witness_ComparisonsWriteOneOrZero :
    (let s := regs [(1#5, 0x00007FFF#32)]
     ¬ ((s.x 1#5).toNat < if (0x7FFF#16).toNat < 2 ^ 15 then (0x7FFF#16).toNat else (0x7FFF#16).toNat + (2 ^ 32 - 2 ^ 16)) ∧
     ((s.x 1#5).toNat < if (0x8000#16).toNat < 2 ^ 15 then (0x8000#16).toNat else (0x8000#16).toNat + (2 ^ 32 - 2 ^ 16))) := by
  decide

/-- Amounts 0 and 31, and a variable amount of 32, which shifts by 0. -/
theorem witness_ShiftsMoveByFiveBits :
    (∃ shamt : BitVec 5, Instr.sll 1#5 2#5 0#5 = .sll 1#5 2#5 shamt ∧ 0 = shamt.toNat) ∧
    (∃ shamt : BitVec 5, Instr.sra 1#5 2#5 31#5 = .sra 1#5 2#5 shamt ∧ 31 = shamt.toNat) ∧
    (∃ rs, Instr.srlv 1#5 2#5 3#5 = .srlv 1#5 2#5 rs ∧ 0 = ((regs [(3#5, 32#32)]).x rs).toNat % 32) :=
  ⟨⟨0#5, rfl, rfl⟩, ⟨31#5, rfl, rfl⟩, ⟨3#5, rfl, rfl⟩⟩

/-- A divisor that is not zero, with the quotient that does not fit, and a divisor that is. -/
theorem witness_DivisionFillsHiAndLo :
    (let s := regs [(1#5, 0x80000000#32), (2#5, 0xFFFFFFFF#32)]
     (s.x 2#5).toInt ≠ 0 ∧ (s.x 2#5).toNat ≠ 0 ∧ s.x 0#5 = 0#32) := by
  decide

/-! Loads, stores and control. -/

/-- The clauses of the loads and stores at the last word of the RAM of `smallMap`, the first of its peripheral, the first address past it
and a misaligned one; and one in a cached RAM. -/
theorem witness_LoadsReadBigEndianValues :
    (let s := mapped [(1#5, 0x2000#32)]
     (effectiveAddress (s.x 1#5) 0xFFFC#16).toNat % 4 = 0 ∧ s.inRam (effectiveAddress (s.x 1#5) 0xFFFC#16) ∧ DataInv s ∧
     (effectiveAddress (s.x 1#5) 0#16).toNat % 4 = 0 ∧
     rangeOf s.cfg (effectiveAddress (s.x 1#5) 0#16) = some ⟨0x2000, 0x3000, .peripheral 0, true⟩ ∧
     s.inPeripheral (effectiveAddress (s.x 1#5) 0#16) ∧ s.cfg.wellFormed = true ∧
     (effectiveAddress (s.x 1#5) 0x1000#16).toNat % 4 = 0 ∧ rangeOf s.cfg (effectiveAddress (s.x 1#5) 0x1000#16) = none ∧
     (effectiveAddress (s.x 1#5) 2#16).toNat % 4 ≠ 0) ∧
    (DataInv (cached .writeBack) ∧ (cached .writeBack).inRam 4#32) :=
  ⟨⟨by decide, inRam_of ⟨0, 0x2000, .ram, false⟩ (by decide) rfl, dataInv_uncached (by decide) (by decide) rfl rfl, by decide, by decide,
    ⟨⟨0x2000, 0x3000, .peripheral 0, true⟩, 0, by decide, rfl⟩, by decide, by decide, by decide, by decide⟩,
   dataInv_cached _, inRam_of ⟨0, 2 ^ 32, .ram, false⟩ (by decide) rfl⟩

/-- The stores share the clauses of the loads; in the cached machines of each write policy. -/
theorem witness_StoresChangeOnlyTheirBytes :
    ∀ p : WritePolicy, (effectiveAddress ((cached p).x 0#5) 4#16).toNat % widthBytes .word = 0 ∧
      (cached p).inRam (effectiveAddress ((cached p).x 0#5) 4#16) ∧ DataInv (cached p) :=
  fun p => ⟨by cases p <;> decide, inRam_of ⟨0, 2 ^ 32, .ram, false⟩ (by cases p <;> decide) rfl, dataInv_cached p⟩

/-- Outside a delay slot; with the condition, at its boundary, and without it. -/
theorem witness_ConditionalBranchesTransferOnTheirCondition :
    (State.reset.cfg.delaySlot = true → State.reset.pendingTarget = none) ∧
    ((regs []).x 1#5).toInt ≤ 0 ∧ ¬ ((regs []).x 1#5).toInt > 0 ∧ ¬ ((regs [(1#5, 1#32)]).x 1#5).toInt ≤ 0 := by decide

theorem witness_LinkingTransfersWriteTheLink :
    (State.reset.cfg.delaySlot = true → State.reset.pendingTarget = none) ∧
    ((regs [(1#5, 0x80000000#32)]).x 1#5).toInt < 0 ∧ ((regs []).x 1#5).toInt ≥ 0 := by decide

theorem witness_RegisterJumpsCheckTheirTarget :
    (State.reset.cfg.delaySlot = true → State.reset.pendingTarget = none) ∧
    ((regs [(1#5, 0xFFFFFFFC#32)]).x 1#5).toNat % 4 = 0 ∧ ((regs [(1#5, 0xFFFFFFFD#32)]).x 1#5).toNat % 4 ≠ 0 := by decide

theorem witness_ControlTransferInDelaySlotIsRefused :
    TransfersControl (.j 0#26) ∧ State.reset.cfg.delaySlot = true ∧
    ∃ p, { State.reset with pendingTarget := some 0x108#32 }.pendingTarget = some p :=
  ⟨by simp [TransfersControl], rfl, _, rfl⟩

theorem witness_SyscallHaltsOrTrapsAndBreakTraps :
    (regs [(2#5, 10#32)]).x 2#5 = 10#32 ∧ (regs [(2#5, 11#32)]).x 2#5 ≠ 10#32 := by decide

/-- A pair inside `CP0_SET`, and pairs outside it in each field. -/
theorem witness_Cp0MovesReachTheFourRegisters :
    (∃ c : Cp0Reg, c = .epc ∧ (14#5 : Reg) = 14#5 ∧ (0#3 : Sel) = 0#3) ∧
    ¬ ((0#3 : Sel) = 0#3 ∧ ((9#5 : Reg) = 8#5 ∨ (9#5 : Reg) = 12#5 ∨ (9#5 : Reg) = 13#5 ∨ (9#5 : Reg) = 14#5)) ∧
    ¬ ((1#3 : Sel) = 0#3 ∧ ((14#5 : Reg) = 8#5 ∨ (14#5 : Reg) = 12#5 ∨ (14#5 : Reg) = 13#5 ∨ (14#5 : Reg) = 14#5)) :=
  ⟨⟨_, rfl, rfl, rfl⟩, by decide, by decide⟩

/-! The pipelined core. -/

/-- An instruction of each side; ADDU in EX with its operands forwarded, beside the single-cycle machine with those values in its registers;
and a jump in the delay slot of a taken one. -/
theorem witness_BothCoresRunTheSameOperations :
    (TransfersControl (.jr 31#5) ∧ ¬ TransfersControl (.add 1#5 2#5 3#5)) ∧
    (let s := { regs [(1#5, 5#32), (3#5, 9#32)] with pc := 0xFC#32 }
     ∃ q, busy.idEx = .slot q ∧ q.payload = .inst (.addu 2#5 1#5 3#5) 0#32 0#32 ∧ busy.cfg.haltAddr ≠ some q.pc ∧ busy.exDelaySlot = false ∧
       q.pc = s.pc ∧ busy.fwd (some 1#5) 0#32 = s.port (some 1#5) ∧ busy.fwd (some 3#5) 0#32 = s.port (some 3#5) ∧
       busy.cfg.delaySlot = s.cfg.delaySlot ∧ busy.hi = s.hi ∧ busy.lo = s.lo ∧ (∀ c, busy.cp0 c = s.cp0 c) ∧ busy.draws = s.draws) ∧
    (let p := { jumping true with exDelaySlot := true }
     p.exDelaySlot = true ∧ ∃ q, p.idEx = .slot q ∧ q.payload = .inst (.j 0x42#26) 0#32 0#32 ∧ p.cfg.haltAddr ≠ some q.pc) :=
  ⟨by simp [TransfersControl],
   ⟨_, rfl, rfl, by decide, rfl, by decide, by decide, by decide, rfl, rfl, rfl, fun c => by cases c <;> rfl, rfl⟩,
   ⟨rfl, _, rfl, rfl, by decide⟩⟩

/-- EX/MEM forwards register 1, MEM/WB register 3, and neither register 4. -/
theorem witness_ForwardingTakesTheYoungerResult :
    busy.cfg.hazardUnit = .forward ∧
    (∃ q u, busy.exMem = .slot q ∧ q.dest = some 1#5 ∧ isLoad q.instr = false ∧ q.result = some u) ∧
    ((∀ p, busy.exMem = .slot p → p.dest ≠ some 3#5) ∧ ∃ q u, busy.memWb = .slot q ∧ q.dest = some 3#5 ∧ q.value = some u) ∧
    ((∀ p, busy.exMem = .slot p → p.dest ≠ some 4#5) ∧ ∀ p, busy.memWb = .slot p → p.dest ≠ some 4#5) := by
  refine ⟨rfl, ⟨_, _, rfl, rfl, rfl, rfl⟩, ⟨?_, _, _, rfl, rfl, rfl⟩, ?_, ?_⟩ <;>
    (intro p h; simp only [busy, Latch.slot.injEq] at h; subst h; decide)

/-- The state `busy` with a load in EX/MEM and a data cache. -/
def busyLoad : State :=
  { busy with cfg := { busy.cfg with dCache := oneLine },
              exMem := .slot { pc := 0xF8#32, instr := .lw 1#5 0#16 0#5, result := none, memop := some (.load 0#32 .word false), dest := some 1#5 } }

/-- A result in each of EX/MEM and MEM/WB, an addition in EX, a NOP in ID, a fetch of RAM; and the same with a load in EX/MEM and a data cache. -/
theorem witness_PipelineMovesEveryInstructionOneStage :
    ∀ s, s = busy ∨ s = busyLoad →
    ∃ (m s' : State) (mw : Latch MemWbSlot) (x : IdExSlot) (d : IfIdSlot) (i j : Instr) (a b w u : Word) (eff : Effects),
      s.run = .running ∧ s.cfg.wellFormed = true ∧ s.cfg.pipelined = true ∧ s.pc.toNat % 4 = 0 ∧
      memStage s.writeBack = .ok mw m ∧
      (s.cfg.iCache.enabled = true ∨ s.cfg.dCache.enabled = true ∨ ∀ e, s.exMem = .slot e → e.memop = none) ∧
      s.idEx = .slot x ∧ s.cfg.haltAddr ≠ some x.pc ∧ x.payload = .inst i a b ∧ (s.exDelaySlot = true → ¬ TransfersControl i) ∧
      operate i (s.fwd (portA i) a) (s.fwd (portB i) b) x.pc m = .done eff ∧ eff.target = none ∧
      s.ifId = .slot d ∧ d.payload = .word w ∧ decode w = some j ∧ s.dataStall j = false ∧
      State.fetchWord s.mem s.pc m = .ok u s' ∧ s'.draws = m.draws := by
  rintro s (rfl | rfl)
  · refine ⟨_, _, _, _, _, .addu 2#5 1#5 3#5, .sll 0#5 0#5 0#5, 0#32, 0#32, 0#32, 0#32, { result := some 14#32 }, rfl, by decide, rfl,
      by decide, rfl, .inr (.inr ?_), rfl, by decide, rfl, (fun h => by cases h), by decide, rfl, rfl, rfl, by decide, by decide, rfl, rfl⟩
    intro e h
    simp only [busy, Latch.slot.injEq] at h
    subst h
    rfl
  · exact ⟨_, _, _, _, _, .addu 2#5 1#5 3#5, .sll 0#5 0#5 0#5, 0#32, 0#32, 0#32, 0#32, { result := some 9#32 }, rfl, by decide, rfl,
      by decide, rfl, .inr (.inl rfl), rfl, by decide, rfl, (fun h => by cases h), by decide, rfl, rfl, rfl, by decide, by decide, rfl, rfl⟩

/-- A value in MEM/WB for register 3, read by the instruction in IF/ID. -/
def backToDecode : State :=
  { pipe with memWb := .slot { pc := 0xF4#32, instr := .addu 3#5 0#5 0#5, value := some 9#32, dest := some 3#5 },
              ifId := inIfId 0x100#32 0x00611021#32, pc := 0x104#32 }

theorem witness_WriteBackIsSeenByDecodeInTheSameCycle :
    ∃ (q : MemWbSlot) (d : IfIdSlot) (i : Instr) (v w : Word),
      backToDecode.run = .running ∧ backToDecode.cfg.wellFormed = true ∧ backToDecode.cfg.pipelined = true ∧ backToDecode.pc.toNat % 4 = 0 ∧
      backToDecode.memWb = .slot q ∧ q.dest = some 3#5 ∧ q.value = some v ∧ (3#5 : Reg) ≠ 0#5 ∧ backToDecode.exMem = .bubble ∧
      backToDecode.idEx = .bubble ∧ backToDecode.ifId = .slot d ∧ d.payload = .word w ∧ decode w = some i ∧ portA i = some 3#5 :=
  ⟨_, _, .addu 2#5 3#5 1#5, _, _, rfl, by decide, rfl, by decide, rfl, rfl, rfl, by decide, rfl, rfl, rfl, rfl, by decide, rfl⟩

/-- S2, and the cycle after it. -/
theorem witness_LoadUseInsertsOneBubble :
    (∃ (x : IdExSlot) (d : IfIdSlot) (j i : Instr) (a b w : Word),
      loadThenUse.run = .running ∧ loadThenUse.cfg.pipelined = true ∧ loadThenUse.cfg.hazardUnit = .forward ∧ loadThenUse.idEx = .slot x ∧
      x.payload = .inst j a b ∧ isLoad j = true ∧ destOf j = some 2#5 ∧ (2#5 : Reg) ≠ 0#5 ∧ loadThenUse.ifId = .slot d ∧ d.payload = .word w ∧
      decode w = some i ∧ portA i = some 2#5) ∧
    ∃ t, step loadThenUse = .next t ∧
      decide (t.run = .running ∧ ((asNext (step t)).any fun u => decide (u.run = .running ∧ u.idEx ≠ .bubble)) = true) = true :=
  ⟨⟨_, _, .lw 2#5 0#16 0#5, .add 3#5 2#5 2#5, _, _, _, rfl, rfl, rfl, rfl, rfl, rfl, rfl, by decide, rfl, rfl, by decide, rfl⟩,
   exists_next _ (by decide)⟩

/-- The same two instructions under the stalling unit, with the producer in ID/EX and in EX/MEM. -/
def stallInEx : State := { loadThenUse with cfg := { loadThenUse.cfg with hazardUnit := .stall } }

def stallInMem : State := { loadInMem with cfg := { loadInMem.cfg with hazardUnit := .stall }, ifId := loadThenUse.ifId }

theorem witness_StallUnitHoldsTheConsumer :
    (∃ (d : IfIdSlot) (i : Instr) (w : Word) (x : IdExSlot) (j : Instr) (a b : Word),
      stallInEx.run = .running ∧ stallInEx.cfg.pipelined = true ∧ stallInEx.cfg.hazardUnit = .stall ∧ stallInEx.idEx = .slot x ∧
      x.payload = .inst j a b ∧ destOf j = some 2#5 ∧ stallInEx.ifId = .slot d ∧ d.payload = .word w ∧ decode w = some i ∧
      portA i = some 2#5 ∧ ¬ TransfersControl j) ∧
    (∃ e, stallInMem.exMem = .slot e ∧ e.dest = some 2#5) ∧
    (∃ t, step stallInEx = .next t ∧ decide (t.run = .running) = true) ∧ (∃ t, step stallInMem = .next t ∧ decide (t.run = .running) = true) :=
  ⟨⟨_, .add 3#5 2#5 2#5, _, _, .lw 2#5 0#16 0#5, _, _, rfl, rfl, rfl, rfl, rfl, rfl, rfl, rfl, by decide, rfl, by simp [TransfersControl]⟩,
   ⟨_, rfl, rfl⟩, exists_next _ (by decide), exists_next _ (by decide)⟩

/-- A load in EX/MEM behind it a full front end that goes on, one that a load holds, and a jump. -/
def loadBehindFull : State := { loadInMem with idEx := inIdEx 0x104#32 (.addu 4#5 5#5 5#5), ifId := inIfId 0x108#32 0#32, pc := 0x10C#32 }

def loadBehindStall : State := { loadInMem with idEx := loadThenUse.idEx, ifId := loadThenUse.ifId, pc := 0x10C#32 }

def loadBehindJump : State := { loadInMem with idEx := inIdEx 0x104#32 (.j 0x42#26), ifId := .bubble, pc := 0x108#32 }

theorem witness_DataAccessHoldsFetchWithoutCaches :
    (∀ s, (s = loadInMem ∨ s = loadBehindFull ∨ s = loadBehindStall ∨ s = loadBehindJump) →
      ∃ (e : ExMemSlot) (op : MemOp), s.run = .running ∧ s.cfg.pipelined = true ∧ s.cfg.iCache.enabled = false ∧ s.cfg.dCache.enabled = false ∧
        s.exMem = .slot e ∧ e.memop = some op ∧ ∃ t, step s = .next t ∧ decide (t.run = .running) = true) ∧
    (loadInMem.idEx = .bubble ∧ loadInMem.ifId = .bubble) ∧
    (¬ TransfersControl (.addu 4#5 5#5 5#5) ∧ decode 0#32 = some (.sll 0#5 0#5 0#5) ∧ loadBehindFull.dataStall (.sll 0#5 0#5 0#5) = false) ∧
    (decode 0x00421820#32 = some (.add 3#5 2#5 2#5) ∧ loadBehindStall.dataStall (.add 3#5 2#5 2#5) = true) ∧
    (operate (.j 0x42#26) (loadBehindJump.fwd none 0#32) (loadBehindJump.fwd none 0#32) 0x104#32 loadBehindJump =
        .done { target := some 0x108#32 } ∧ loadBehindJump.cfg.delaySlot = true ∧ loadBehindJump.ifId = .bubble) := by
  refine ⟨?_, ⟨rfl, rfl⟩, ⟨by simp [TransfersControl], by decide, by decide⟩, ⟨by decide, by decide⟩, by decide, rfl, rfl⟩
  rintro s (rfl | rfl | rfl | rfl) <;> exact ⟨_, _, rfl, rfl, rfl, rfl, rfl, rfl, exists_next _ (by decide)⟩

/-- A jump with its delay slot in IF/ID, with and without a delay slot configured, and with IF/ID empty. -/
theorem witness_TakenTransferFlushesTheYounger :
    ∀ ds : Bool,
      (∃ (x : IdExSlot) (i : Instr) (a b target : Word) (eff : Effects),
        (jumping ds).run = .running ∧ (jumping ds).cfg.pipelined = true ∧ (jumping ds).idEx = .slot x ∧ x.payload = .inst i a b ∧
        operate i ((jumping ds).fwd (portA i) a) ((jumping ds).fwd (portB i) b) x.pc (jumping ds) = .done eff ∧ eff.target = some target) ∧
      (∃ t, step (jumping ds) = .next t ∧ decide (t.run = .running ∧ (jumping ds).cfg.delaySlot = ds ∧ (jumping ds).ifId ≠ .bubble) = true) ∧
      (∃ t, step { jumping ds with ifId := .bubble } = .next t ∧ decide (t.run = .running) = true) := by
  intro ds
  refine ⟨⟨_, .j 0x42#26, 0#32, 0#32, 0x108#32, { target := some 0x108#32 }, rfl, rfl, rfl, rfl, ?_, rfl⟩, exists_next _ ?_, exists_next _ ?_⟩ <;>
    cases ds <;> decide

/-- A store of 5 to address 8 in EX/MEM. -/
def storing : State :=
  { pipe with exMem := .slot { pc := 0x100#32, instr := .sw 2#5 8#16 0#5, result := none, memop := some (.store 8#32 .word 5#32), dest := none } }

theorem witness_PipelineStoresInMemOnly :
    DataInv storing ∧ storing.cfg.pipelined = true ∧ ∃ t, step storing = .next t ∧ decide (t.mem.byte 11#32 = 5#8) = true :=
  ⟨dataInv_uncached (by decide) (by decide) rfl rfl, rfl, exists_next _ (by decide)⟩

/-! Memory, caches, the host. -/

/-- In the cached machine of each write policy: a read and a write of RAM complete. -/
theorem witness_ReadsReturnTheDataSideValue :
    ∀ p : WritePolicy, DataInv (cached p) ∧ (cached p).inRam 4#32 ∧ ∃ s', (cached p).memRead 4#32 .word = .ok 0xBBBB0004#32 s' := by
  intro p
  refine ⟨dataInv_cached p, inRam_of ⟨0, 2 ^ 32, .ram, false⟩ (by cases p <;> decide) rfl, ?_⟩
  cases p <;> exact ⟨_, rfl⟩

/-- Also of LoadAfterStoreReturnsTheBytes. -/
theorem witness_WritesChangeTheDataSideBytes :
    ∀ p : WritePolicy, DataInv (cached p) ∧ (cached p).inRam 4#32 ∧ ∃ s', (cached p).memWrite 4#32 5#32 .word = .ok s' := by
  intro p
  refine ⟨dataInv_cached p, inRam_of ⟨0, 2 ^ 32, .ram, false⟩ (by cases p <;> decide) rfl, ?_⟩
  cases p <;> exact ⟨_, rfl⟩

/-- A cached machine with empty memory beside one without caches; a store goes on, BREAK traps, a missing register is refused. -/
def cachedEmpty : State := State.resetWith (cachedConfig .writeBack) []

theorem witness_CachesAreTransparentToPrograms :
    DataInv cachedEmpty ∧ State.reset.mem.wf = true ∧ SeenAlike cachedEmpty State.reset ∧
    (∃ t, exec (.sw 0#5 4#16 0#5) cachedEmpty = .next t ∧ decide (t.run = .running) = true) ∧
    asRefusal (exec (.mfc0 2#5 9#5 0#3) cachedEmpty) = some (.cp0NotImplemented 9#5 0#3) := by
  have en : (lineOfTwo .writeBack).enabled = true := rfl
  obtain ⟨inv, clean, notDirty⟩ := CacheInv.ofReset (cachedConfig .writeBack) en []
  have hi : DataInv cachedEmpty := ⟨by decide, by decide, ⟨fun _ => ⟨inv, notDirty⟩, fun _ => ⟨inv, clean⟩⟩⟩
  refine ⟨hi, by decide, ⟨rfl, rfl, rfl, rfl, rfl, fun c => by cases c <;> rfl, rfl, rfl, rfl, rfl, rfl, rfl, fun a => ?_⟩,
    exists_next _ (by decide), by decide⟩
  have hp : cachedEmpty.dCache.peek cachedEmpty.cfg.dCache a = none := by
    have hn : cachedEmpty.dCache.hitWay (setIndex cachedEmpty.cfg.dCache a) (tagIndex cachedEmpty.cfg.dCache a) = none := by
      cases e : cachedEmpty.dCache.hitWay (setIndex cachedEmpty.cfg.dCache a) (tagIndex cachedEmpty.cfg.dCache a) with
      | none => rfl
      | some w =>
        have hv := (Cache.hitWay_eq_some e).1
        rw [show cachedEmpty.dCache = Cache.reset (lineOfTwo .writeBack) from rfl, Cache.line_reset] at hv
        cases hv
    simp [Cache.peek, hn]
  rw [State.dataByte]
  cases rangeOf cachedEmpty.cfg a with
  | none => rfl
  | some r => simp only [hp]; split <;> rfl

theorem witness_StepKeepsCacheInvariants :
    ∀ p : WritePolicy, DataInv (cached p) ∧ ∃ t, step (cached p) = .next t ∧ decide (t.iCache.stats.misses = 1) = true :=
  fun p => ⟨dataInv_cached p, exists_next _ (by cases p <;> decide)⟩

theorem witness_FlushMakesMemoryEqualToTheView : DataInv (cached .writeBack) ∧ (cached .writeBack).cfg.dCache.enabled = true :=
  ⟨dataInv_cached _, rfl⟩

/-- A set with an invalid way, and a set with none. -/
theorem witness_VictimIsChosenByPolicy :
    (let c := { oneLine with ways := 2 }
     let k := (Cache.reset c).readWord c .data [] 0#32
     let k2 := k.2.1.readWord c .data [] 4#32
     (k.2.1.ways 0).length = c.ways ∧ 1 ≤ c.ways ∧ (k.2.1.line 0 0).valid = true ∧ (k.2.1.line 0 1).valid = false ∧
     (k2.2.1.line 0 0).valid = true ∧ (k2.2.1.line 0 1).valid = true ∧ (k2.2.1.ways 0).length = c.ways) := by
  decide

theorem witness_TagAndSetNameTheBlock : 1 ≤ (lineOfTwo .writeBack).sets ∧ 1 ≤ (lineOfTwo .writeBack).words := by decide

/-- Three words that end at the top of memory. -/
theorem witness_LoadRangeWritesConsecutiveWords :
    State.reset.mem.wf = true ∧ (wordBase 0xFFFFFFF4#32).toNat + 4 * [1#32, 2#32, 3#32].length ≤ 2 ^ 32 ∧
    (∀ k, k < [1#32, 2#32, 3#32].length → State.reset.inRam (wordBase 0xFFFFFFF4#32 + BitVec.ofNat 32 (4 * k))) :=
  ⟨by decide, by decide, fun k hk => inRam_of ⟨0, 2 ^ 32, .ram, false⟩
    (by have : k = 0 ∨ k = 1 ∨ k = 2 := by simp at hk; omega
        rcases this with rfl | rfl | rfl <;> decide) rfl⟩

theorem witness_ConstantExpansionsLoadTheConstant : (1#5 : Reg) ≠ 0#5 ∧ (31#5 : Reg) ≠ 0#5 := by decide

/-- The farthest label a branch reaches and the first it does not, one across 2^32, and the last jump of a region. -/
theorem witness_LabelOperandsReachTheirLabel :
    branchOperand 0x100#32 0x20100#32 = some 0x7FFF#16 ∧ branchOperand 0x100#32 0x20104#32 = none ∧
    branchOperand 0xFFFFFFFC#32 0x10#32 = some 4#16 ∧ branchTarget 0xFFFFFFFC#32 4#16 = 0x10#32 ∧
    jumpOperand 0x0FFFFFF8#32 0x0FFFFFFC#32 = some 0x3FFFFFF#26 := by decide

end Sys2Proof.Tests
end

