-- ==== Sys2Proof/Proofs/Scope.lean ====
section
/-! PROOFS of the statements of 00_scope.md: a configuration and its check (R6, R61), what a step can refuse, what no step changes (R5), and the
invariants after reset (R41). -/

namespace Sys2Proof

/-! The checks of a configuration, each as what it says (R6, R61). -/

theorem CacheCfg.geometryOk_iff (c : CacheCfg) :
    c.geometryOk = true ↔ (c.enabled = true → 1 ≤ c.sets ∧ 1 ≤ c.words ∧ 1 ≤ c.ways) := by
  cases he : c.enabled <;> simp [CacheCfg.geometryOk, he, and_assoc]

theorem Range.boundsOk_iff (r : Range) :
    r.boundsOk = true ↔ r.lo < r.hi ∧ r.hi ≤ 2 ^ 32 ∧ r.lo % 4 = 0 ∧ r.hi % 4 = 0 := by
  simp only [Range.boundsOk, Bool.and_eq_true, decide_eq_true_eq, and_assoc]
  rfl

theorem Range.blocksOk_iff (r : Range) (c : CacheCfg) :
    r.blocksOk c = true ↔
      (c.enabled = true → r.uncached = false → r.lo % (4 * c.words) = 0 ∧ r.hi % (4 * c.words) = 0) := by
  cases he : c.enabled <;> cases hu : r.uncached <;> simp [Range.blocksOk, he, hu]

theorem Range.peripheralUncached_iff (r : Range) :
    r.peripheralUncached = true ↔ ∀ d, r.backend = .peripheral d → r.uncached = true := by
  cases hb : r.backend <;> simp [Range.peripheralUncached, hb]

theorem aligned4_iff (a : Word) : aligned4 a = true ↔ a.toNat % 4 = 0 := by simp [aligned4]

theorem haltAddrOk_iff (a : Option Word) : haltAddrOk a = true ↔ Machine.OptAligned a := by
  cases a <;> simp [haltAddrOk, Machine.OptAligned, aligned4_iff]

theorem rangesApart_iff (map : List Range) :
    rangesApart map = true ↔ map.Pairwise (fun r q => r.hi ≤ q.lo ∨ q.hi ≤ r.lo) := by
  induction map with
  | nil => simp [rangesApart]
  | cons r rest ih => simp [rangesApart, Range.apart, ih]

/-- R6 as a whole, the clauses about a cache said of both at once. -/
theorem Config.wellFormed_iff (g : Config) :
    g.wellFormed = true ↔
      (∀ c, (c = g.iCache ∨ c = g.dCache) → c.enabled = true → 1 ≤ c.sets ∧ 1 ≤ c.words ∧ 1 ≤ c.ways) ∧
      g.resetPc.toNat % 4 = 0 ∧ Machine.OptAligned g.haltAddr ∧
      (∀ r, r ∈ g.map → r.lo < r.hi ∧ r.hi ≤ 2 ^ 32 ∧ r.lo % 4 = 0 ∧ r.hi % 4 = 0) ∧
      g.map.Pairwise (fun r q => r.hi ≤ q.lo ∨ q.hi ≤ r.lo) ∧
      (∀ r c, r ∈ g.map → (c = g.iCache ∨ c = g.dCache) → c.enabled = true → r.uncached = false →
        r.lo % (4 * c.words) = 0 ∧ r.hi % (4 * c.words) = 0) ∧
      (∀ r d, r ∈ g.map → r.backend = .peripheral d → r.uncached = true) := by
  simp only [Config.wellFormed, Bool.and_eq_true, List.all_eq_true, CacheCfg.geometryOk_iff, Range.boundsOk_iff, Range.blocksOk_iff,
    Range.peripheralUncached_iff, aligned4_iff, haltAddrOk_iff, rangesApart_iff]
  constructor
  · rintro ⟨⟨⟨⟨⟨⟨⟨hi, hd⟩, hpc⟩, hhalt⟩, hbounds⟩, hapart⟩, hblocks⟩, hperiph⟩
    refine ⟨?_, hpc, hhalt, hbounds, hapart, ?_, fun r d hr => hperiph r hr d⟩
    · rintro c (rfl | rfl)
      · exact hi
      · exact hd
    · rintro r c hr (rfl | rfl)
      · exact (hblocks r hr).1
      · exact (hblocks r hr).2
  · rintro ⟨hgeo, hpc, hhalt, hbounds, hapart, hblocks, hperiph⟩
    exact ⟨⟨⟨⟨⟨⟨⟨hgeo _ (.inl rfl), hgeo _ (.inr rfl)⟩, hpc⟩, hhalt⟩, hbounds⟩, hapart⟩,
      fun r hr => ⟨hblocks r _ hr (.inl rfl), hblocks r _ hr (.inr rfl)⟩⟩, fun r hr d => hperiph r d hr⟩

end Sys2Proof

namespace Sys2Proof.Machine

/-! The single-cycle meaning of an instruction, through its operation block. -/

/-- R302: the meaning of an instruction is the commit of its block on the values of its ports; that of a control transfer is refused in
the delay slot of a taken one (R266). -/
theorem exec_eq (i : Instr) (s : State) :
    exec i s =
      if isControl i then commitControl (destOf i) (operate i (s.port (portA i)) (s.port (portB i)) s.pc s) s
      else commit (destOf i) (operate i (s.port (portA i)) (s.port (portB i)) s.pc s) s := by
  cases i <;> rfl

/-- What the meaning of an instruction can do. -/
theorem exec_cases (i : Instr) (s : State) :
    (isControl i = true ∧ s.cfg.delaySlot = true ∧ s.pendingTarget.isSome = true ∧ exec i s = .refused .controlInDelaySlot) ∨
    exec i s = commit (destOf i) (operate i (s.port (portA i)) (s.port (portB i)) s.pc s) s := by
  rw [exec_eq]
  split
  next hc =>
    unfold commitControl
    split
    next hd =>
      rw [Bool.and_eq_true] at hd
      exact .inl ⟨hc, hd.1, hd.2, rfl⟩
    next => exact .inr rfl
  next => exact .inr rfl

/-! What is refused. -/

/-- The two refusals that an instruction can meet: a control transfer in a delay slot (R266) and a Coprocessor 0 register that does not
exist (R34). -/
def InstrRefusal (r : Refusal) : Prop :=
  r = .controlInDelaySlot ∨ ∃ rd sel, cp0Of rd sel = none ∧ r = .cp0NotImplemented rd sel

theorem InstrRefusal.ne_illFormedConfig {r : Refusal} (h : InstrRefusal r) : r ≠ .illFormedConfig := by
  rcases h with rfl | ⟨rd, sel, _, rfl⟩ <;> exact Refusal.noConfusion

/-- R34: of the operation blocks, those of MFC0 and MTC0 alone refuse. -/
theorem operate_refuse {i : Instr} {a b pc : Word} {s : State} {r : Refusal} (h : operate i a b pc s = .refuse r) :
    ∃ rd sel, cp0Of rd sel = none ∧ r = .cp0NotImplemented rd sel := by
  cases i
  case mfc0 rt rd sel =>
    simp only [operate, opMfc0] at h
    split at h
    · cases h
    next hn => cases h; exact ⟨rd, sel, hn, rfl⟩
  case mtc0 rt rd sel =>
    simp only [operate, opMtc0] at h
    split at h
    · cases h
    next hn => cases h; exact ⟨rd, sel, hn, rfl⟩
  case add | sub | addi | jr | jalr | syscall | div | divu =>
    simp only [operate, opAdd, opSub, opAddi, opJr, opJalr, opSyscall, opDiv, opDivu] at h
    split at h <;> cases h
  all_goals cases h

theorem commit_refused {dest : Option Reg} {o : OpOut} {s : State} {r : Refusal} (h : commit dest o s = .refused r) : o = .refuse r := by
  rcases commit_cases dest o s with ⟨_, _, _, e⟩ | ⟨_, e⟩ | ⟨_, ho, e⟩ | ⟨_, _, _, e⟩ |
      ⟨_, _, _, _, _, _, ⟨_, _, _, e⟩ | ⟨_, _, _, e⟩⟩ | ⟨_, _, _, _, _, _, ⟨_, _, _, e⟩ | ⟨_, _, e⟩⟩ <;>
    rw [e] at h <;> cases h
  exact ho

theorem exec_refused {i : Instr} {s : State} {r : Refusal} (h : exec i s = .refused r) : InstrRefusal r := by
  rcases exec_cases i s with ⟨_, _, _, e⟩ | e <;> rw [e] at h
  · cases h; exact .inl rfl
  · exact .inr (operate_refuse (commit_refused h))

theorem stepSingle_refused {s : State} {r : Refusal} (h : stepSingle s = .refused r) : InstrRefusal r := by
  rcases stepSingle_cases s with ⟨_, e⟩ | ⟨_, _, e⟩ | ⟨_, _, ⟨_, _, _, e⟩ | ⟨_, _, _, _, e⟩ | ⟨_, _, i, _, _, e⟩⟩ <;> rw [e] at h
  · cases h
  · cases h
  · cases h
  · cases h
  · exact exec_refused h

theorem exStage_refused {s : State} {r : Refusal} (h : exStage s = .refuse r) : InstrRefusal r := by
  rcases exStage_cases s with ⟨_, e⟩ | ⟨q, _, ⟨_, e⟩ | ⟨_, ⟨_, _, e⟩ | ⟨i, a, b, _, ⟨_, _, e⟩ | ⟨_, ⟨_, _, _, e⟩ | ⟨_, e⟩ | ⟨_, ho, e⟩ | ⟨_, _, e⟩⟩⟩⟩⟩ <;>
    rw [e] at h <;> cases h
  · exact .inl rfl
  · exact .inr (operate_refuse ho)

/-- A cycle of the pipelined core is refused by EX alone. -/
theorem stepPipelined_refused {s : State} {r : Refusal} (h : stepPipelined s = .refused r) : InstrRefusal r := by
  simp only [stepPipelined] at h
  split at h
  · cases h
  · simp only [afterMem] at h
    split at h
    next he => cases h; exact exStage_refused he
    · cases h
    · cases h
    · simp only [finishCycle] at h
      split at h <;> cases h

/-- R6: a running machine is refused as ill formed exactly when its configuration fails the check. -/
theorem step_illFormedConfig_iff {s : State} (hr : s.run = .running) : step s = .refused .illFormedConfig ↔ s.cfg.wellFormed = false := by
  rw [step_running hr]
  constructor
  · intro h
    by_contra hw
    rw [Bool.not_eq_false] at hw
    rw [if_pos hw] at h
    split at h
    · exact (stepPipelined_refused h).ne_illFormedConfig rfl
    · exact (stepSingle_refused h).ne_illFormedConfig rfl
  · intro hw
    rw [hw]
    rfl

/-! What no step changes. -/

/-- The configuration, the symbol table and the clock of two states agree. -/
structure SetupKept (s t : State) : Prop where
  cfg : t.cfg = s.cfg
  symbols : t.symbols = s.symbols
  cycles : t.cycles = s.cycles

theorem SetupKept.trans {s t u : State} (h : SetupKept s t) (k : SetupKept t u) : SetupKept s u :=
  ⟨k.cfg.trans h.cfg, k.symbols.trans h.symbols, k.cycles.trans h.cycles⟩

theorem takeTrap_setupKept (pc : Word) (k : TrapKind) (a : Option Word) (s : State) : SetupKept s (s.takeTrap pc k a) := by
  constructor <;> simp

theorem memRead_setupKept {s t : State} {a v : Word} {n : Width} (h : s.memRead a n = .ok v t) : SetupKept s t := by
  obtain ⟨_, _, _, rfl⟩ := State.memRead_ok h
  exact ⟨rfl, rfl, rfl⟩

theorem memWrite_setupKept {s t : State} {a v : Word} {n : Width} (h : s.memWrite a v n = .ok t) : SetupKept s t := by
  obtain ⟨_, _, rfl⟩ := State.memWrite_ok h
  exact ⟨rfl, rfl, rfl⟩

theorem fetchWord_setupKept {s t : State} {m : Memory} {a v : Word} (h : s.fetchWord m a = .ok v t) : SetupKept s t := by
  obtain ⟨_, _, rfl⟩ := State.fetchWord_ok h
  exact ⟨rfl, rfl, rfl⟩

/-- The register writes and the move of PC that end a commit. -/
theorem commitWrites_setupKept (dest : Option Reg) (v : Option Word) (e : Effects) (s : State) :
    SetupKept s (((s.setDest dest v).applySpecial e).updatePc e.target) := by
  constructor <;> simp

theorem commit_setupKept {dest : Option Reg} {o : OpOut} {s t : State} (h : commit dest o s = .next t) : SetupKept s t := by
  rcases commit_cases dest o s with ⟨_, _, _, e⟩ | ⟨_, e⟩ | ⟨_, _, e⟩ | ⟨_, _, _, e⟩ |
      ⟨_, _, _, _, _, _, ⟨_, _, _, e⟩ | ⟨_, _, hm, e⟩⟩ | ⟨_, _, _, _, _, _, ⟨_, _, _, e⟩ | ⟨_, hm, e⟩⟩ <;>
    rw [e] at h <;> cases h
  · exact takeTrap_setupKept ..
  · exact ⟨rfl, rfl, rfl⟩
  · exact commitWrites_setupKept ..
  · exact takeTrap_setupKept ..
  · exact (memRead_setupKept hm).trans (commitWrites_setupKept ..)
  · exact takeTrap_setupKept ..
  · exact (memWrite_setupKept hm).trans ⟨by simp, by simp, by simp⟩

theorem exec_setupKept {i : Instr} {s t : State} (h : exec i s = .next t) : SetupKept s t := by
  rcases exec_cases i s with ⟨_, _, _, e⟩ | e <;> rw [e] at h
  · cases h
  · exact commit_setupKept h

theorem stepSingle_setupKept {s t : State} (h : stepSingle s = .next t) : SetupKept s.beginCycle t := by
  rcases stepSingle_cases s with ⟨_, e⟩ | ⟨_, _, e⟩ | ⟨_, _, ⟨_, _, _, e⟩ | ⟨w, s', hf, _, e⟩ | ⟨w, s', i, hf, _, e⟩⟩ <;> rw [e] at h
  · cases h; exact ⟨rfl, rfl, rfl⟩
  · cases h
  · cases h; exact takeTrap_setupKept ..
  · cases h; exact (fetchWord_setupKept hf).trans ⟨by simp, by simp, by simp⟩
  · have emits : SetupKept s' ((s'.emit (.fetch s.pc w)).emit (.execute s'.pc i)) := ⟨rfl, rfl, rfl⟩
    exact (fetchWord_setupKept hf).trans (emits.trans (exec_setupKept h))

theorem memStage_setupKept {s t : State} {mw : Latch MemWbSlot} (h : memStage s = .ok mw t) : SetupKept s t := by
  obtain ⟨_, _, _, rfl⟩ := memStage_ok h
  exact ⟨rfl, rfl, rfl⟩

theorem exStage_setupKept {s t : State} {em : Latch ExMemSlot} {rd : Option Word} (h : exStage s = .ok em rd t) : SetupKept s t := by
  rcases exStage_ok h with ⟨_, _, _, rfl⟩ | ⟨_, _, _, _, _, _, _, _, _, _, _, _, rfl⟩
  · exact ⟨rfl, rfl, rfl⟩
  · constructor <;> simp

theorem ifStage_setupKept (m : Memory) (fetching : Bool) (s : State) : SetupKept s (ifStage m fetching s).2 := by
  obtain ⟨_, _, _, e, _⟩ := ifStage_state m fetching s
  rw [e]
  exact ⟨rfl, rfl, rfl⟩

theorem stepPipelined_setupKept {s t : State} (h : stepPipelined s = .next t) : SetupKept s.beginCycle t := by
  have wb : SetupKept s.beginCycle s.beginCycle.writeBack := by constructor <;> simp
  refine wb.trans ?_
  rcases stepPipelined_cases h with ⟨_, _, _, _, rfl⟩ | ⟨mw, s2, hm, ⟨_, _, rfl⟩ | ⟨_, _, _, _, rfl⟩ | ⟨_, _, s3, fetching, hx, _, _, rfl⟩⟩
  · constructor <;> simp
  · exact (memStage_setupKept hm).trans ⟨by simp, by simp, by simp⟩
  · exact (memStage_setupKept hm).trans ⟨by simp, by simp, by simp⟩
  · have notices : SetupKept s2 { s2 with events := s2.executeNotices } := ⟨rfl, rfl, rfl⟩
    have front := ifStage_setupKept s.mem fetching s3
    exact (memStage_setupKept hm).trans (notices.trans ((exStage_setupKept hx).trans (front.trans ⟨rfl, rfl, rfl⟩)))

/-- R5, R40: a step either is that of a stopped machine, which stays as it is, or keeps the configuration, the symbol table and the clock of the
cycle that it begins. -/
theorem step_setupKept {s t : State} (h : step s = .next t) :
    (s.run ≠ .running ∧ t = s) ∨ (s.run = .running ∧ SetupKept s.beginCycle t) := by
  rcases step_cases h with stopped | ⟨hr, _, _, h⟩ | ⟨hr, _, _, h⟩
  · exact .inl stopped
  · exact .inr ⟨hr, stepSingle_setupKept h⟩
  · exact .inr ⟨hr, stepPipelined_setupKept h⟩

/-! The state after reset. -/

/-- R26, R41: after reset PC is `RESET_PC`, and there is no other address. -/
theorem pcAligned_resetWith {g : Config} (hg : g.wellFormed = true) (image : Memory) : PcAligned (State.resetWith g image) := by
  obtain ⟨_, hpc, _⟩ := (Config.wellFormed_iff g).1 hg
  exact ⟨hpc, nofun, nofun, nofun, nofun, nofun, nofun⟩

theorem machineInv_resetWith {g : Config} {image : Memory} (hg : g.wellFormed = true) (hm : image.wf = true) :
    MachineInv (State.resetWith g image) :=
  ⟨hg, hm, Vector.getElem_set_self _, pcAligned_resetWith hg image, fun _ => ⟨rfl, rfl, rfl⟩⟩

theorem cachesInv_resetWith (g : Config) (image : Memory) : CachesInv (State.resetWith g image) where
  instruction he :=
    have ⟨inv, _, notDirty⟩ := CacheInv.ofReset g he image
    ⟨inv, notDirty⟩
  data he :=
    have ⟨inv, clean, _⟩ := CacheInv.ofReset g he image
    ⟨inv, clean⟩

theorem dataInv_resetWith {g : Config} {image : Memory} (hg : g.wellFormed = true) (hm : image.wf = true) :
    DataInv (State.resetWith g image) :=
  ⟨hg, hm, cachesInv_resetWith g image⟩

/-! The statements. -/

/-- Settles O5: neither core refuses for this reason, so the check of the configuration decides, and it says what R6 and R61 say. -/
theorem illFormedConfigurationIsRefused : Obligations.IllFormedConfigurationIsRefused := by
  intro s hr
  rw [ne_eq, step_illFormedConfig_iff hr, Bool.not_eq_false]
  exact Config.wellFormed_iff s.cfg

/-- Settles O9, by induction on the number of steps. -/
theorem stoppedMachineStaysAsItIs : Obligations.StoppedMachineStaysAsItIs := by
  intro n s hs
  induction n with
  | zero => rfl
  | succ k ih =>
    have stays : core.step s = .next s := step_stopped hs
    simp only [Host.Core.run, stays]
    exact ih

/-- Settles O11: `beginCycle` touches the clock and the notifications alone, and the cycle keeps what it begins with. -/
theorem stepsKeepTheConfiguration : Obligations.StepsKeepTheConfiguration := by
  intro s t h
  rcases step_setupKept h with ⟨_, rfl⟩ | ⟨_, kept⟩
  · exact ⟨rfl, rfl⟩
  · exact ⟨kept.cfg, kept.symbols⟩

/-- Settles O13: after reset every cache line is invalid and every latch empty, and PC is the aligned `RESET_PC`. -/
theorem resetMeetsTheInvariants : Obligations.ResetMeetsTheInvariants := by
  have hg : Config.default.wellFormed = true := by decide
  exact ⟨fun _ _ hg hm => ⟨machineInv_resetWith hg hm, dataInv_resetWith hg hm⟩,
    machineInv_resetWith hg rfl, dataInv_resetWith hg rfl⟩

end Sys2Proof.Machine
end

/-! PROOFS of the statements of 10_state.md: what an operation block can yield and what an instruction does with it, the invariant of the machine
(R26, R37), the clock (R40), the registers that nothing else reads or writes (R28 to R33), and the notifications of a cycle (R24, R42). -/

namespace Sys2Proof.Machine

/-! Operation blocks. -/

/-- What an operation block can yield (R302, R330), for the instruction `i` at `pc`: the effects that no constructor names are absent. -/
inductive BlockShape (i : Instr) (pc : Word) : OpOut → Prop where
  /-- A value for the destination register, and perhaps a target. -/
  | value (v : Word) (target : Option Word) (dest : (destOf i).isSome = true) (aligned : pc.toNat % 4 = 0 → OptAligned target) :
      BlockShape i pc (.done { result := some v, target := target })
  /-- Perhaps a target, and no value. -/
  | transfer (target : Option Word) (dest : destOf i = none) (aligned : pc.toNat % 4 = 0 → OptAligned target) :
      BlockShape i pc (.done { target := target })
  | load (a : Word) (n : Width) (signed : Bool) (dest : (destOf i).isSome = true) : BlockShape i pc (.done { memop := some (.load a n signed) })
  | store (a : Word) (n : Width) (v : Word) (dest : destOf i = none) : BlockShape i pc (.done { memop := some (.store a n v) })
  | multiplier (hi lo : Option Word) (drew : Bool) (dest : destOf i = none) (writes : WritesMultiplier i) :
      BlockShape i pc (.done { hi := hi, lo := lo, drew := drew })
  | cp0 (rt rd : Reg) (sel : Sel) (c : Cp0Reg) (v : Word) (instr : i = .mtc0 rt rd sel) (names : cp0Of rd sel = some c) :
      BlockShape i pc (.done { cp0 := some (c, v) })
  | trap (k : TrapKind) (a : Option Word) (address : (∃ b, a = some b) ↔ HasAddress k) : BlockShape i pc (.trap k a)
  | halt : BlockShape i pc .halt
  | refuse (r : Refusal) : BlockShape i pc (.refuse r)

theorem optAligned_none : OptAligned none := nofun

theorem optAligned_some {a : Word} (h : a.toNat % 4 = 0) : OptAligned (some a) := by
  rintro _ ⟨⟩
  exact h

theorem OptAligned.getD {a : Option Word} {b : Word} (ha : OptAligned a) (hb : b.toNat % 4 = 0) : (a.getD b).toNat % 4 = 0 := by
  cases a with
  | none => exact hb
  | some t => exact ha t rfl

theorem optAligned_ite {c : Bool} {a : Word} (h : a.toNat % 4 = 0) : OptAligned (if c then some a else none) := by
  cases c
  · exact optAligned_none
  · exact optAligned_some h

/-- R25: the address of the next instruction. -/
theorem aligned_add_four {pc : Word} (h : pc.toNat % 4 = 0) : (pc + 4#32).toNat % 4 = 0 := by
  rw [BitVec.toNat_add]
  have : (4#32).toNat = 4 := rfl
  omega

/-- A word whose two low bits are 0 is a multiple of 4. -/
theorem aligned_append_zeros (v : BitVec 30) : (v ++ 0#2 : Word).toNat % 4 = 0 := by
  rw [BitVec.toNat_append]
  simp [Nat.shiftLeft_eq]

theorem aligned_branchTarget {pc : Word} (h : pc.toNat % 4 = 0) (imm : Imm) : (branchTarget pc imm).toNat % 4 = 0 := by
  have next := aligned_add_four h
  have offset : ((imm ++ 0#2).signExtend 32 : Word).toNat % 4 = 0 := by
    rw [BitVec.toNat_signExtend, BitVec.toNat_setWidth, BitVec.toNat_append, BitVec.toNat_ofNat, Nat.zero_mod, Nat.or_zero]
    split <;> omega
  unfold branchTarget
  rw [BitVec.toNat_add]
  omega

theorem aligned_jumpTarget (pc : Word) (index : Index) : (jumpTarget pc index).toNat % 4 = 0 :=
  aligned_append_zeros ((pc + 4#32).extractLsb' 28 4 ++ index)

/-- R263: the check of a register jump. -/
theorem targetAligned_iff (t : Word) : targetAligned t = true ↔ t.toNat % 4 = 0 := by
  rw [targetAligned, decide_eq_true_eq, ← BitVec.toNat_inj]
  simp

/-- R265: a branch without a link. -/
theorem blockShape_branches {i : Instr} {pc target : Word} (c : Bool) (dest : destOf i = none)
    (aligned : pc.toNat % 4 = 0 → target.toNat % 4 = 0) : BlockShape i pc (branches c target) :=
  .transfer _ dest fun h => optAligned_ite (aligned h)

/-- R258: a branch with a link. -/
theorem blockShape_branchesAndLinks {i : Instr} {pc target : Word} (ds c : Bool) (dest : (destOf i).isSome = true)
    (aligned : pc.toNat % 4 = 0 → target.toNat % 4 = 0) : BlockShape i pc (branchesAndLinks ds pc c target) :=
  .value _ _ dest fun h => optAligned_ite (aligned h)

theorem blockShape_yields {i : Instr} {pc : Word} (dest : (destOf i).isSome = true) (v : Word) : BlockShape i pc (yields v) :=
  .value v none dest fun _ => optAligned_none

theorem blockShape_overflow (i : Instr) (pc : Word) : BlockShape i pc (.trap .overflow none) :=
  .trap _ _ (by simp [HasAddress])

/-- Every operation block has one of the shapes. -/
theorem operate_shape (i : Instr) (a b pc : Word) (s : State) : BlockShape i pc (operate i a b pc s) := by
  cases i
  case add | sub | addi =>
    simp only [operate, opAdd, opSub, opAddi]
    split
    · exact blockShape_overflow ..
    · exact blockShape_yields rfl _
  case jr =>
    simp only [operate, opJr]
    split
    next h => exact blockShape_branches true rfl fun _ => (targetAligned_iff a).1 h
    next => exact .trap _ _ (by simp [HasAddress])
  case jalr =>
    simp only [operate, opJalr]
    split
    next h => exact blockShape_branchesAndLinks _ true rfl fun _ => (targetAligned_iff a).1 h
    next => exact .trap _ _ (by simp [HasAddress])
  case bltz | bgez | beq | bne | blez | bgtz => exact blockShape_branches _ rfl fun h => aligned_branchTarget h _
  case bltzal | bgezal => exact blockShape_branchesAndLinks _ _ rfl fun h => aligned_branchTarget h _
  case j => exact blockShape_branches true rfl fun _ => aligned_jumpTarget ..
  case jal => exact blockShape_branchesAndLinks _ true rfl fun _ => aligned_jumpTarget ..
  case syscall =>
    simp only [operate, opSyscall]
    split
    · exact .halt
    · exact .trap _ _ (by simp [HasAddress])
  case brk => exact .trap _ _ (by simp [HasAddress])
  case div | divu =>
    simp only [operate, opDiv, opDivu]
    split
    · exact .multiplier _ _ _ rfl (by simp [WritesMultiplier])
    · exact .multiplier _ _ _ rfl (by simp [WritesMultiplier])
  case mult | multu | mthi | mtlo => exact .multiplier _ _ _ rfl (by simp [WritesMultiplier])
  case mfc0 =>
    simp only [operate, opMfc0]
    split
    · exact blockShape_yields rfl _
    · exact .refuse _
  case mtc0 rt rd sel =>
    simp only [operate, opMtc0]
    split
    next c h => exact .cp0 rt rd sel c b rfl h
    next => exact .refuse _
  case lb | lbu | lh | lhu | lw => exact .load _ _ _ rfl
  case sb | sh | sw => exact .store _ _ _ rfl
  all_goals exact blockShape_yields rfl _

theorem operate_done_shape {i : Instr} {a b pc : Word} {s : State} {e : Effects} (h : operate i a b pc s = .done e) :
    BlockShape i pc (.done e) :=
  h ▸ operate_shape i a b pc s

/-! What an instruction can do on the single-cycle core. -/

/-- The data access of an instruction: the data cache, memory and the draw counter move, the write of memory is notified, and nothing else
changes; memory keeps its canonical form. -/
def DataMoved (op : Option MemOp) (s m : State) : Prop :=
  (s.mem.wf = true → m.mem.wf = true) ∧
  ∃ k mem d, m = { s with dCache := k, mem := mem, draws := d, events := s.events ++ storeEvents op }

theorem Cache.allocate_wf {m : Memory} (h : m.wf = true) (c : CacheCfg) (k : Cache) (s t w : Nat) : (k.allocate c m s t w).2.wf = true := by
  unfold Cache.allocate
  dsimp only
  split
  · exact Memory.wf_writeBurst h _ _
  · exact h

theorem Cache.readWord_wf {m : Memory} (h : m.wf = true) (c : CacheCfg) (side : CacheSide) (k : Cache) (a : Word) :
    (k.readWord c side m a).2.2.wf = true := by
  rcases Cache.readWord_cases c side k m a with ⟨w, _, e⟩ | ⟨_, w, r, _, er, e⟩ <;> rw [e]
  · exact h
  · rw [er]; exact Cache.allocate_wf h ..

theorem Cache.write_wf {m : Memory} (h : m.wf = true) (c : CacheCfg) (side : CacheSide) (k : Cache) (a v : Word) (n : Width) :
    (k.write c side m a v n).2.wf = true := by
  unfold Cache.write
  split
  · unfold Cache.writeBackStore
    dsimp only
    split
    · exact h
    · exact Cache.allocate_wf h _ _ _ (tagIndex c a) _
  · unfold Cache.throughNoAllocStore
    dsimp only
    split <;> exact Memory.wf_write h ..
  · unfold Cache.throughAllocStore
    dsimp only
    split
    · exact Memory.wf_write h ..
    · exact Memory.wf_write (Cache.allocate_wf h ..) ..

theorem memRead_wf {s t : State} {a v : Word} {n : Width} (h : s.memRead a n = .ok v t) (hm : s.mem.wf = true) : t.mem.wf = true := by
  rcases State.memRead_cases s a n with ⟨_, e⟩ | ⟨_, _, e⟩ | ⟨r, _, _, ⟨_, _, e⟩ | ⟨_, _, e⟩ | ⟨_, _, e⟩⟩ <;> rw [e] at h <;> cases h
  · exact Cache.readWord_wf hm ..
  · exact hm
  · exact hm

theorem memWrite_wf {s t : State} {a v : Word} {n : Width} (h : s.memWrite a v n = .ok t) (hm : s.mem.wf = true) : t.mem.wf = true := by
  rcases State.memWrite_cases s a v n with ⟨_, e⟩ | ⟨_, _, e⟩ | ⟨r, _, _, ⟨_, _, e⟩ | ⟨_, _, e⟩ | ⟨_, _, e⟩⟩ <;> rw [e] at h <;> cases h
  · exact Cache.write_wf hm ..
  · exact Memory.wf_write hm ..
  · exact hm

/-- R66, R371: a read that traps has an address, and its kind too. -/
theorem memRead_trap {s : State} {a bad : Word} {n : Width} {k : TrapKind} (h : s.memRead a n = .trap k bad) : HasAddress k := by
  rcases State.memRead_cases s a n with ⟨_, e⟩ | ⟨_, _, e⟩ | ⟨r, _, _, ⟨_, _, e⟩ | ⟨_, _, e⟩ | ⟨_, _, e⟩⟩ <;> rw [e] at h <;> cases h
  · exact .inl ⟨_, rfl⟩
  · exact .inr (.inr ⟨_, rfl⟩)

/-- R67, R371: likewise a write. -/
theorem memWrite_trap {s : State} {a v bad : Word} {n : Width} {k : TrapKind} (h : s.memWrite a v n = .trap k bad) : HasAddress k := by
  rcases State.memWrite_cases s a v n with ⟨_, e⟩ | ⟨_, _, e⟩ | ⟨r, _, _, ⟨_, _, e⟩ | ⟨_, _, e⟩ | ⟨_, _, e⟩⟩ <;> rw [e] at h <;> cases h
  · exact .inl ⟨_, rfl⟩
  · exact .inr (.inr ⟨_, rfl⟩)

theorem address_iff {k : TrapKind} (h : HasAddress k) (a : Word) : (∃ b, some a = some b) ↔ HasAddress k := ⟨fun _ => h, fun _ => ⟨a, rfl⟩⟩

/-- What an instruction that answers a next state did: it trapped, it halted, or its block's effects `e` were committed, after its data access,
with `v` for the destination register. -/
inductive ExecOutcome (i : Instr) (s : State) : State → Prop where
  | trapped (k : TrapKind) (a : Option Word) (address : (∃ b, a = some b) ↔ HasAddress k) : ExecOutcome i s (s.takeTrap s.pc k a)
  | halted : ExecOutcome i s s.halt
  | committed (e : Effects) (v : Option Word) (m : State) (block : operate i (s.port (portA i)) (s.port (portB i)) s.pc s = .done e)
      (moved : DataMoved e.memop s m) (value : (destOf i).isSome = true → v.isSome = true) :
      ExecOutcome i s (((m.setDest (destOf i) v).applySpecial e).updatePc e.target)

/-- A block that goes on has a value for the destination register, or loads it. -/
theorem BlockShape.result {i : Instr} {pc : Word} {e : Effects} (h : BlockShape i pc (.done e)) (hl : ∀ a n sg, e.memop ≠ some (.load a n sg))
    (hd : (destOf i).isSome = true) : e.result.isSome = true := by
  cases h with
  | value => rfl
  | load => exact (hl _ _ _ rfl).elim
  | transfer _ dest => simp [dest] at hd
  | store _ _ _ dest => simp [dest] at hd
  | multiplier _ _ _ dest => simp [dest] at hd
  | cp0 _ _ _ _ _ instr => simp [instr, destOf] at hd

theorem exec_outcome {i : Instr} {s t : State} (h : exec i s = .next t) : ExecOutcome i s t := by
  rcases exec_cases i s with ⟨_, _, _, e⟩ | e <;> rw [e] at h
  · cases h
  have shape := operate_shape i (s.port (portA i)) (s.port (portB i)) s.pc s
  generalize ho : operate i (s.port (portA i)) (s.port (portB i)) s.pc s = o at h shape
  rcases commit_cases (destOf i) o s with ⟨k, a, rfl, e⟩ | ⟨_, e⟩ | ⟨_, _, e⟩ | ⟨f, rfl, hm, e⟩ |
      ⟨f, a, n, sg, rfl, hm, ⟨k, bad, ht, e⟩ | ⟨v, m, hr, e⟩⟩ | ⟨f, a, n, v, rfl, hm, ⟨k, bad, ht, e⟩ | ⟨m, hw, e⟩⟩ <;>
    rw [e] at h <;> cases h
  · cases shape with
    | trap _ _ address => exact .trapped k a address
  · exact .halted
  · exact .committed f _ s ho ⟨id, s.dCache, s.mem, s.draws, by simp [hm, storeEvents]⟩ (shape.result (by simp [hm]))
  · exact .trapped k _ (address_iff (memRead_trap ht) bad)
  · refine .committed f _ m ho ⟨memRead_wf hr, ?_⟩ fun _ => rfl
    obtain ⟨c, mem, d, rfl⟩ := State.memRead_ok hr
    exact ⟨c, mem, d, by simp [hm, storeEvents]⟩
  · exact .trapped k _ (address_iff (memWrite_trap ht) bad)
  · refine .committed f _ (m.emit (.memory a n v)) ho ⟨fun hs => memWrite_wf (t := m) hw hs, ?_⟩ (shape.result (by simp [hm]))
    obtain ⟨c, mem, rfl⟩ := State.memWrite_ok hw
    exact ⟨c, mem, s.draws, by simp [hm, storeEvents, State.emit]⟩

/-! The invariant of the machine. -/

/-- What an operation that leaves the configuration, the latches and the waiting targets owes to the invariant of the machine. -/
structure InvKept (s t : State) : Prop where
  cfg : t.cfg = s.cfg
  pendingTarget : t.pendingTarget = s.pendingTarget
  pendingRedirect : t.pendingRedirect = s.pendingRedirect
  exDelaySlot : t.exDelaySlot = s.exDelaySlot
  ifId : t.ifId = s.ifId
  idEx : t.idEx = s.idEx
  exMem : t.exMem = s.exMem
  memWb : t.memWb = s.memWb
  memory : s.mem.wf = true → t.mem.wf = true
  zero : s.gpr[0] = 0#32 → t.gpr[0] = 0#32
  pc : s.pc.toNat % 4 = 0 → t.pc.toNat % 4 = 0

theorem MachineInv.of_kept {s t : State} (h : MachineInv s) (k : InvKept s t) : MachineInv t where
  config := k.cfg ▸ h.config
  memory := k.memory h.memory
  zero := k.zero h.zero
  aligned :=
    { pc := k.pc h.aligned.pc
      pendingTarget := k.pendingTarget ▸ h.aligned.pendingTarget
      pendingRedirect := k.pendingRedirect ▸ h.aligned.pendingRedirect
      ifId := k.ifId ▸ h.aligned.ifId
      idEx := k.idEx ▸ h.aligned.idEx
      exMem := k.exMem ▸ h.aligned.exMem
      memWb := k.memWb ▸ h.aligned.memWb }
  noDelay := by rw [k.cfg, k.pendingTarget, k.pendingRedirect, k.exDelaySlot]; exact h.noDelay

theorem beginCycle_invKept (s : State) : InvKept s s.beginCycle := by constructor <;> simp

theorem emit_invKept (e : Notification) (s : State) : InvKept s (s.emit e) := by constructor <;> simp

theorem halt_invKept (s : State) : InvKept s s.halt := by constructor <;> simp

theorem setPc_invKept {pc : Word} (h : pc.toNat % 4 = 0) (s : State) : InvKept s (s.setPc pc) := by constructor <;> simp [h]

theorem applySpecial_invKept (e : Effects) (s : State) : InvKept s (s.applySpecial e) := by constructor <;> simp

theorem setDest_invKept (dest : Option Reg) (v : Option Word) (s : State) : InvKept s (s.setDest dest v) := by
  constructor
  case zero => exact fun h => State.gpr_setDest_zero h dest v
  all_goals simp

theorem drain_invKept (l : Latch MemWbSlot) (s : State) : InvKept s (s.drain l) := by
  cases l with
  | bubble => constructor <;> simp [State.drain]
  | slot q => exact setDest_invKept q.dest q.value s

/-- R328, R348: WB is the drain of MEM/WB. -/
theorem State.writeBack_eq_drain (s : State) : s.writeBack = s.drain s.memWb := by
  unfold State.writeBack State.drain
  rfl

theorem writeBack_invKept (s : State) : InvKept s s.writeBack := s.writeBack_eq_drain ▸ drain_invKept _ s

theorem takeTrap_invKept {pc : Word} (h : pc.toNat % 4 = 0) (k : TrapKind) (a : Option Word) (s : State) : InvKept s (s.takeTrap pc k a) := by
  obtain ⟨_, _, _, _, hpc, _⟩ := State.takeTrap_fields s pc k a
  constructor
  case pc => rw [hpc]; exact fun _ => h
  all_goals simp

theorem stageTrap_invKept {pc : Word} (h : pc.toNat % 4 = 0) (before : List Notification) (k : TrapKind) (a : Option Word) (s : State) :
    InvKept s (s.stageTrap before pc k a) := by
  rw [State.stageTrap_eq]
  obtain ⟨cfg, target, redirect, slot, ifId, idEx, exMem, memWb, memory, zero, aligned⟩ := takeTrap_invKept h k a s
  exact ⟨cfg, target, redirect, slot, ifId, idEx, exMem, memWb, memory, zero, aligned⟩

theorem DataMoved.invKept {op : Option MemOp} {s m : State} (h : DataMoved op s m) : InvKept s m := by
  obtain ⟨memory, k, mem, d, rfl⟩ := h
  constructor
  case memory => exact memory
  all_goals simp

theorem fetchWord_invKept {s t : State} {m : Memory} {a w : Word} (h : s.fetchWord m a = .ok w t) : InvKept s t := by
  obtain ⟨k, d, rfl⟩ := State.fetchWord_ok h
  constructor <;> simp

theorem ifStage_invKept (m : Memory) (fetching : Bool) (s : State) : InvKept s (ifStage m fetching s).2 := by
  obtain ⟨k, d, fetched, e, _⟩ := ifStage_state m fetching s
  rw [e]
  constructor <;> simp

/-- R303: PC goes to the target that waits, or past the instruction, and the target waits where there is a delay slot. -/
theorem MachineInv.updatePc {s : State} (h : MachineInv s) {target : Option Word} (ht : OptAligned target) : MachineInv (s.updatePc target) := by
  have next := aligned_add_four h.aligned.pc
  obtain ⟨delayed, direct⟩ := State.updatePc_fields s target
  cases hd : s.cfg.delaySlot with
  | true =>
    obtain ⟨hpc, hwait⟩ := delayed hd
    constructor
    case aligned =>
      obtain ⟨_, waiting, redirect, ifId, idEx, exMem, memWb⟩ := h.aligned
      exact ⟨hpc ▸ waiting.getD next, by rw [hwait]; exact ht, by simpa, by simpa, by simpa, by simpa, by simpa⟩
    case noDelay => simp [hd]
    all_goals simp [h.config, h.memory, h.zero]
  | false =>
    obtain ⟨hpc, hwait⟩ := direct hd
    refine h.of_kept ?_
    constructor
    case pc => exact fun _ => hpc ▸ ht.getD next
    case pendingTarget => exact hwait
    all_goals simp

theorem BlockShape.target {i : Instr} {pc : Word} {e : Effects} (h : BlockShape i pc (.done e)) (hpc : pc.toNat % 4 = 0) :
    OptAligned e.target := by
  cases h with
  | value _ _ _ aligned => exact aligned hpc
  | transfer _ _ aligned => exact aligned hpc
  | load | store | multiplier | cp0 => exact optAligned_none

/-- The target of an instruction at a multiple of 4 is one (R251, R263). -/
theorem operate_target {i : Instr} {a b pc : Word} {s : State} {e : Effects} (h : operate i a b pc s = .done e) (hpc : pc.toNat % 4 = 0) :
    OptAligned e.target :=
  (operate_done_shape h).target hpc

theorem exec_machineInv {i : Instr} {s t : State} (hs : MachineInv s) (h : exec i s = .next t) : MachineInv t := by
  cases exec_outcome h with
  | trapped k a => exact hs.of_kept (takeTrap_invKept hs.aligned.pc k a s)
  | halted => exact hs.of_kept (halt_invKept s)
  | committed e v m block moved =>
    have written := (hs.of_kept moved.invKept).of_kept (setDest_invKept (destOf i) v m)
    exact (written.of_kept (applySpecial_invKept e _)).updatePc (operate_target block hs.aligned.pc)

theorem stepSingle_machineInv {s t : State} (hs : MachineInv s) (h : stepSingle s = .next t) : MachineInv t := by
  have begun := hs.of_kept (beginCycle_invKept s)
  rcases stepSingle_cases s with ⟨_, e⟩ | ⟨_, _, e⟩ | ⟨_, _, ⟨k, a, _, e⟩ | ⟨w, s', hf, _, e⟩ | ⟨w, s', i, hf, _, e⟩⟩ <;> rw [e] at h
  · cases h; exact begun.of_kept (halt_invKept _)
  · cases h
  · cases h; exact begun.of_kept (takeTrap_invKept hs.aligned.pc k _ _)
  · cases h
    have fetched := begun.of_kept (fetchWord_invKept hf)
    exact (fetched.of_kept (emit_invKept _ _)).of_kept (takeTrap_invKept fetched.aligned.pc _ _ _)
  · have fetched := begun.of_kept (fetchWord_invKept hf)
    exact exec_machineInv ((fetched.of_kept (emit_invKept _ _)).of_kept (emit_invKept _ _)) h

theorem MachineInv.noRedirect {s : State} (hs : MachineInv s) (h : s.cfg.delaySlot = false) : s.pendingRedirect = none :=
  have ⟨_, noRedirect, _⟩ := hs.noDelay h
  noRedirect

/-! The stages of the pipelined core. -/

theorem Latch.forall_bubble {α : Type} {P : α → Prop} : ∀ q, (Latch.bubble : Latch α) = .slot q → P q := by
  rintro _ ⟨⟩

theorem memStage_wf {s t : State} {mw : Latch MemWbSlot} (h : memStage s = .ok mw t) (hm : s.mem.wf = true) : t.mem.wf = true := by
  rcases memStage_cases s with ⟨_, e⟩ | ⟨q, _, ⟨_, e⟩ | ⟨_, _, _, _, ⟨_, _, _, e⟩ | ⟨v, s', hr, e⟩⟩ |
      ⟨_, _, _, _, ⟨_, _, _, e⟩ | ⟨s', hw, e⟩⟩⟩ <;> rw [e] at h <;> cases h
  · exact hm
  · exact hm
  · exact memRead_wf hr hm
  · exact memWrite_wf (t := s') hw hm

/-- R322: MEM hands on the address of the slot in EX/MEM. -/
theorem memStage_slot {s t : State} {r : MemWbSlot} (h : memStage s = .ok (.slot r) t) : ∃ q, s.exMem = .slot q ∧ r.pc = q.pc := by
  rcases memStage_cases s with ⟨_, e⟩ | ⟨q, hq, ⟨_, e⟩ | ⟨_, _, _, _, ⟨_, _, _, e⟩ | ⟨v, s', hr, e⟩⟩ |
      ⟨_, _, _, _, ⟨_, _, _, e⟩ | ⟨s', hw, e⟩⟩⟩ <;> rw [e] at h <;> cases h <;> exact ⟨q, hq, rfl⟩

/-- R332: MEM stops at the slot in EX/MEM. -/
theorem memStage_trap {s : State} {pc bad : Word} {k : TrapKind} (h : memStage s = .trap pc k bad) : ∃ q, s.exMem = .slot q ∧ pc = q.pc := by
  rcases memStage_cases s with ⟨_, e⟩ | ⟨q, hq, ⟨_, e⟩ | ⟨_, _, _, _, ⟨_, _, _, e⟩ | ⟨_, _, _, e⟩⟩ |
      ⟨_, _, _, _, ⟨_, _, _, e⟩ | ⟨_, _, e⟩⟩⟩ <;> rw [e] at h <;> cases h <;> exact ⟨q, hq, rfl⟩

theorem memStage_invKept {s t : State} {mw : Latch MemWbSlot} (h : memStage s = .ok mw t) : InvKept s t := by
  have wf := memStage_wf h
  obtain ⟨k, m, d, rfl⟩ := memStage_ok h
  constructor
  case memory => exact wf
  all_goals simp

/-- R330: EX stops at the slot in ID/EX. -/
theorem exStage_stop {s : State} {pc : Word} (h : exStage s = .halt pc ∨ ∃ k a, exStage s = .trap pc k a) :
    ∃ q, s.idEx = .slot q ∧ pc = q.pc := by
  rcases exStage_cases s with ⟨_, e⟩ | ⟨q, hq, ⟨_, e⟩ | ⟨_, ⟨_, _, e⟩ |
      ⟨i, a, b, _, ⟨_, _, e⟩ | ⟨_, ⟨_, _, _, e⟩ | ⟨_, e⟩ | ⟨_, _, e⟩ | ⟨_, _, e⟩⟩⟩⟩⟩ <;>
    rw [e] at h <;> simp [exDone] at h <;> exact ⟨q, hq, h.symm⟩

/-- The invariant after EX, and the alignment of what EX hands on. -/
theorem MachineInv.exStage {s t : State} {em : Latch ExMemSlot} {rd : Option Word} (hs : MachineInv s) (h : exStage s = .ok em rd t) :
    MachineInv t ∧ (∀ r, em = .slot r → r.pc.toNat % 4 = 0) ∧ OptAligned rd := by
  rcases exStage_ok h with ⟨_, rfl, rfl, rfl⟩ | ⟨q, i, a, b, e, hq, _, _, _, ho, rfl, rfl, rfl⟩
  · exact ⟨hs, Latch.forall_bubble, optAligned_none⟩
  · have hpc := hs.aligned.idEx q hq
    obtain ⟨config, memory, zero, ⟨pc, waiting, redirect, ifId, idEx, exMem, memWb⟩, noDelay⟩ := hs.of_kept (applySpecial_invKept e s)
    rw [State.applySpecial_cfg] at noDelay
    refine ⟨⟨config, memory, zero, ⟨pc, waiting, redirect, ifId, idEx, exMem, memWb⟩, fun hd => ?_⟩, ?_, operate_target ho hpc⟩
    · have hd' : s.cfg.delaySlot = false := by simpa using hd
      obtain ⟨noTarget, noRedirect, _⟩ := noDelay hd'
      exact ⟨noTarget, noRedirect, by simp [hd']⟩
    · rintro _ ⟨⟩
      exact hpc

/-- R333: ID hands on the address of the slot in IF/ID. -/
theorem idStage_slot {s : State} {x : IdExSlot} (h : (idStage s).next = .slot x) : ∃ q, s.ifId = .slot q ∧ x.pc = q.pc := by
  unfold idStage at h
  split at h
  · cases h
  next q hq =>
    refine ⟨q, hq, ?_⟩
    split at h
    · cases h; rfl
    · split at h
      · cases h; rfl
      · split at h <;> cases h
        rfl

/-- The invariant for the next values of the front of the pipeline, in a machine of configuration `g`. -/
structure FrontInv (g : Config) (f : Front) : Prop where
  ifId : ∀ q, f.ifId = .slot q → q.pc.toNat % 4 = 0
  idEx : ∀ q, f.idEx = .slot q → q.pc.toNat % 4 = 0
  pc : f.pc.toNat % 4 = 0
  pendingRedirect : OptAligned f.pendingRedirect
  noDelay : g.delaySlot = false → f.pendingRedirect = none

section
variable {s : State} {d : IdStage} {offered : Latch IfIdSlot} (hs : MachineInv s) (hd : ∀ q, d.next = .slot q → q.pc.toNat % 4 = 0)
  (ho : ∀ q, offered = .slot q → q.pc.toNat % 4 = 0)
include hs hd ho

theorem advance_frontInv (fetching : Bool) : FrontInv s.cfg (advance d fetching offered s) := by
  unfold advance
  split
  · exact ⟨hs.aligned.ifId, hd, hs.aligned.pc, hs.aligned.pendingRedirect, hs.noRedirect⟩
  · split
    · exact ⟨ho, hd, hs.aligned.pendingRedirect.getD (aligned_add_four hs.aligned.pc), optAligned_none, fun _ => rfl⟩
    · exact ⟨Latch.forall_bubble, hd, hs.aligned.pc, hs.aligned.pendingRedirect, hs.noRedirect⟩

theorem redirectDelayed_frontInv {t : Word} (ht : t.toNat % 4 = 0) (hslot : s.cfg.delaySlot = true) (fetching : Bool) :
    FrontInv s.cfg (redirectDelayed t d fetching offered s) := by
  have slot (h : s.cfg.delaySlot = false) : False := by simp [hslot] at h
  unfold redirectDelayed
  split
  next q hq =>
    refine ⟨?_, hd, ht, hs.aligned.pendingRedirect, fun h => (slot h).elim⟩
    dsimp only
    split
    · exact hq ▸ hs.aligned.ifId
    · exact Latch.forall_bubble
  · split
    · exact ⟨ho, hd, ht, optAligned_none, fun _ => rfl⟩
    · exact ⟨Latch.forall_bubble, hd, hs.aligned.pc, optAligned_some ht, fun h => (slot h).elim⟩

theorem frontNext_frontInv {redirect : Option Word} (hr : OptAligned redirect) (fetching : Bool) :
    FrontInv s.cfg (frontNext redirect d fetching offered s) := by
  unfold frontNext
  split
  next t =>
    have ht := hr t rfl
    split
    next hslot => exact redirectDelayed_frontInv hs hd ho ht hslot fetching
    next => exact ⟨Latch.forall_bubble, Latch.forall_bubble, ht, hs.aligned.pendingRedirect, hs.noRedirect⟩
  next => exact advance_frontInv hs hd ho fetching

end

/-- R333, R337, R340: the front that follows from the stages ID and IF meets the invariant. -/
theorem MachineInv.front {s : State} (hs : MachineInv s) {redirect : Option Word} (hr : OptAligned redirect) (m : Memory) (fetching : Bool) :
    FrontInv s.cfg (frontNext redirect (idStage s) fetching (ifStage m fetching s).1 s) := by
  refine frontNext_frontInv hs (fun x hx => ?_) (fun x hx => ?_) hr fetching
  · obtain ⟨q, hq, e⟩ := idStage_slot hx
    exact e ▸ hs.aligned.ifId q hq
  · obtain ⟨noOffer, p, offer⟩ := ifStage_offer m s
    cases fetching with
    | false => rw [noOffer] at hx; cases hx
    | true => rw [offer] at hx; cases hx; exact hs.aligned.pc

theorem MachineInv.commitLatches {s : State} (hs : MachineInv s) {f : Front} (hf : FrontInv s.cfg f) {em : Latch ExMemSlot} {mw : Latch MemWbSlot}
    (hem : ∀ r, em = .slot r → r.pc.toNat % 4 = 0) (hmw : ∀ r, mw = .slot r → r.pc.toNat % 4 = 0) (later : List Notification) :
    MachineInv (s.commitLatches f em mw later) where
  config := hs.config
  memory := hs.memory
  zero := hs.zero
  aligned := ⟨hf.pc, hs.aligned.pendingTarget, hf.pendingRedirect, hf.ifId, hf.idEx, hem, hmw⟩
  noDelay h :=
    have ⟨noTarget, _, noSlot⟩ := hs.noDelay h
    ⟨noTarget, hf.noDelay h, noSlot⟩

/-- The invariant after WB and MEM, with the notifications that EX begins with, and the alignment of what MEM hands on. -/
theorem MachineInv.memStage {s m : State} {mw : Latch MemWbSlot} (hs : MachineInv s) (h : memStage s = .ok mw m) :
    MachineInv m ∧ ∀ r, mw = .slot r → r.pc.toNat % 4 = 0 := by
  refine ⟨hs.of_kept (memStage_invKept h), ?_⟩
  rintro r rfl
  obtain ⟨q, hq, e⟩ := memStage_slot h
  exact e ▸ hs.aligned.exMem q hq

theorem notices_invKept (es : List Notification) (s : State) : InvKept s { s with events := es } := by constructor <;> simp

theorem stepPipelined_machineInv {s t : State} (hs : MachineInv s) (h : stepPipelined s = .next t) : MachineInv t := by
  have written := (hs.of_kept (beginCycle_invKept s)).of_kept (writeBack_invKept _)
  rcases stepPipelined_cases h with ⟨pc, k, a, hm, rfl⟩ | ⟨mw, m, hm, stages⟩
  · obtain ⟨q, hq, rfl⟩ := memStage_trap hm
    exact written.of_kept (stageTrap_invKept (written.aligned.exMem q hq) ..)
  · obtain ⟨accessed, hmw⟩ := written.memStage hm
    have begun := accessed.of_kept (notices_invKept m.executeNotices m)
    rcases stages with ⟨pc, hx, rfl⟩ | ⟨pc, k, a, hx, rfl⟩ | ⟨em, rd, u, fetching, hx, _, _, rfl⟩
    · obtain ⟨q, hq, rfl⟩ := exStage_stop (.inl hx)
      have drained := (accessed.of_kept (notices_invKept (m.executeNotices ++ m.events) m)).of_kept (drain_invKept mw _)
      exact (drained.of_kept (setPc_invKept (accessed.aligned.idEx q hq) _)).of_kept (halt_invKept _)
    · obtain ⟨q, hq, rfl⟩ := exStage_stop (.inr ⟨k, a, hx⟩)
      exact (accessed.of_kept (drain_invKept mw _)).of_kept (stageTrap_invKept (accessed.aligned.idEx q hq) ..)
    · obtain ⟨executed, hem, hrd⟩ := begun.exStage hx
      have kept := ifStage_invKept s.mem fetching u
      have front := executed.front hrd s.mem fetching
      rw [← kept.cfg] at front
      exact (executed.of_kept kept).commitLatches front hem hmw _

/-- Settles O12: on each core every operation of the step keeps the invariant, and what a stage hands on is aligned. -/
theorem stepKeepsMachineInvariant : Obligations.StepKeepsMachineInvariant := by
  intro s t hs h
  rcases step_cases h with ⟨_, rfl⟩ | ⟨_, _, _, h⟩ | ⟨_, _, _, h⟩
  · exact hs
  · exact stepSingle_machineInv hs h
  · exact stepPipelined_machineInv hs h

/-! Going on. -/

/-- No instruction faults. -/
theorem exec_ne_fault (i : Instr) (s : State) (f : Fault) : exec i s ≠ .fault f := by
  intro h
  rcases exec_cases i s with ⟨_, _, _, e⟩ | e <;> rw [e] at h
  · cases h
  rcases commit_cases (destOf i) (operate i (s.port (portA i)) (s.port (portB i)) s.pc s) s with ⟨_, _, _, e⟩ | ⟨_, e⟩ | ⟨_, _, e⟩ | ⟨_, _, _, e⟩ |
      ⟨_, _, _, _, _, _, ⟨_, _, _, e⟩ | ⟨_, _, _, e⟩⟩ | ⟨_, _, _, _, _, _, ⟨_, _, _, e⟩ | ⟨_, _, e⟩⟩ <;>
    rw [e] at h <;> cases h

/-- R26: the single-cycle core faults at a misaligned PC alone. -/
theorem stepSingle_fault {s : State} {f : Fault} (h : stepSingle s = .fault f) : aligned4 s.pc = false := by
  rcases stepSingle_cases s with ⟨_, e⟩ | ⟨_, misaligned, _⟩ | ⟨_, _, ⟨_, _, _, e⟩ | ⟨_, _, _, _, e⟩ | ⟨_, _, i, _, _, e⟩⟩
  · rw [e] at h; cases h
  · exact misaligned
  · rw [e] at h; cases h
  · rw [e] at h; cases h
  · rw [e] at h; exact (exec_ne_fault i _ f h).elim

/-- R26: so does the pipelined core. -/
theorem stepPipelined_fault {s : State} {f : Fault} (h : stepPipelined s = .fault f) : aligned4 s.pc = false := by
  simp only [stepPipelined] at h
  split at h
  · cases h
  next mw m hm =>
    have pcAfterMem : m.pc = s.pc := by
      obtain ⟨_, _, _, rfl⟩ := memStage_ok hm
      simp
    simp only [afterMem] at h
    split at h
    · cases h
    · cases h
    · cases h
    next em rd u hx =>
      have pcAfterEx : u.pc = m.pc := by
        rcases exStage_ok hx with ⟨_, _, _, rfl⟩ | ⟨_, _, _, _, _, _, _, _, _, _, _, _, rfl⟩ <;> simp
      simp only [finishCycle] at h
      split at h
      next hc =>
        simp only [State.pcMisaligned, Bool.and_eq_true, Bool.not_eq_true', pcAfterEx, pcAfterMem] at hc
        exact hc.2
      next => cases h

/-- R266: an instruction is refused as a control transfer in a delay slot only where delay slots are configured. -/
theorem exec_controlInDelaySlot {i : Instr} {s : State} (h : exec i s = .refused .controlInDelaySlot) : s.cfg.delaySlot = true := by
  rcases exec_cases i s with ⟨_, delaySlot, _, _⟩ | e
  · exact delaySlot
  · rw [e] at h
    obtain ⟨_, _, _, noControl⟩ := operate_refuse (commit_refused h)
    cases noControl

theorem stepSingle_controlInDelaySlot {s : State} (h : stepSingle s = .refused .controlInDelaySlot) : s.cfg.delaySlot = true := by
  rcases stepSingle_cases s with ⟨_, e⟩ | ⟨_, _, e⟩ | ⟨_, _, ⟨_, _, _, e⟩ | ⟨_, _, _, _, e⟩ | ⟨w, s', i, hf, _, e⟩⟩ <;> rw [e] at h
  · cases h
  · cases h
  · cases h
  · cases h
  · have delaySlot := exec_controlInDelaySlot h
    obtain ⟨_, _, rfl⟩ := State.fetchWord_ok hf
    exact delaySlot

theorem exStage_controlInDelaySlot {s : State} (h : exStage s = .refuse .controlInDelaySlot) : s.exDelaySlot = true := by
  rcases exStage_cases s with ⟨_, e⟩ | ⟨q, _, ⟨_, e⟩ | ⟨_, ⟨_, _, e⟩ |
      ⟨i, a, b, _, ⟨slot, _, e⟩ | ⟨_, ⟨_, _, _, e⟩ | ⟨_, e⟩ | ⟨_, ho, e⟩ | ⟨_, _, e⟩⟩⟩⟩⟩ <;>
    rw [e] at h <;> cases h
  · exact slot
  · obtain ⟨_, _, _, noControl⟩ := operate_refuse ho
    cases noControl

/-- R341: a cycle of the pipelined core is refused so only where the instruction in EX is in a delay slot. -/
theorem stepPipelined_controlInDelaySlot {s : State} (h : stepPipelined s = .refused .controlInDelaySlot) : s.exDelaySlot = true := by
  simp only [stepPipelined] at h
  split at h
  · cases h
  next mw m hm =>
    simp only [afterMem] at h
    split at h
    next hx =>
      cases h
      have slot := exStage_controlInDelaySlot hx
      obtain ⟨_, _, _, rfl⟩ := memStage_ok hm
      simpa using slot
    · cases h
    · cases h
    · simp only [finishCycle] at h
      split at h <;> cases h

/-- Where the invariant holds, a running step is the step of one of the cores, which does not fault, and is refused for one of the two reasons. -/
theorem step_goesOn {s : State} (hs : MachineInv s) (r : StepResult)
    (fault : ∀ f, r = .fault f → aligned4 s.pc = false) (refused : ∀ e, r = .refused e → InstrRefusal e)
    (control : r = .refused .controlInDelaySlot → s.cfg.delaySlot = true) :
    (∃ t, r = .next t) ∨ (s.cfg.delaySlot = true ∧ r = .refused .controlInDelaySlot) ∨
    (∃ rd sel, cp0Of rd sel = none ∧ r = .refused (.cp0NotImplemented rd sel)) := by
  cases r with
  | next t => exact .inl ⟨t, rfl⟩
  | fault f =>
    have aligned := (aligned4_iff s.pc).2 hs.aligned.pc
    rw [fault f rfl] at aligned
    cases aligned
  | refused e =>
    rcases refused e rfl with rfl | ⟨rd, sel, noName, rfl⟩
    · exact .inr (.inl ⟨control rfl, rfl⟩)
    · exact .inr (.inr ⟨rd, sel, noName, rfl⟩)

/-- Settles O14: the invariant aligns PC, so no core faults, and it excludes delay-slot state without a delay slot. -/
theorem stepGoesOnFromTheInvariant : Obligations.StepGoesOnFromTheInvariant := by
  intro s hs
  by_cases hr : s.run = .running
  · rw [step_running hr, if_pos hs.config]
    split
    · refine step_goesOn hs _ (fun _ => stepPipelined_fault) (fun _ => stepPipelined_refused) fun h => ?_
      by_contra noSlot
      obtain ⟨_, _, notInSlot⟩ := hs.noDelay (Bool.eq_false_of_not_eq_true noSlot)
      rw [stepPipelined_controlInDelaySlot h] at notInSlot
      cases notInSlot
    · exact step_goesOn hs _ (fun _ => stepSingle_fault) (fun _ => stepSingle_refused) stepSingle_controlInDelaySlot
  · exact .inl ⟨s, step_stopped hr⟩

/-- Settles O10: a running step keeps the clock of the cycle that it begins, and that has counted. -/
theorem everyRunningStepCountsOneCycle : Obligations.EveryRunningStepCountsOneCycle := by
  intro s t hr h
  rcases step_setupKept h with ⟨stopped, _⟩ | ⟨_, kept⟩
  · exact (stopped hr).elim
  · exact kept.cycles

/-! The registers that only their instructions write. -/

theorem BlockShape.hiLo {i : Instr} {pc : Word} {e : Effects} (h : BlockShape i pc (.done e)) : (e.hi = none ∧ e.lo = none) ∨ WritesMultiplier i := by
  cases h with
  | multiplier _ _ _ _ writes => exact .inr writes
  | value | transfer | load | store | cp0 => exact .inl ⟨rfl, rfl⟩

/-- R289: only MTC0 writes a Coprocessor 0 register, the one that it names. -/
theorem BlockShape.cp0_written {i : Instr} {pc v : Word} {e : Effects} {c : Cp0Reg} (h : BlockShape i pc (.done e)) (hc : e.cp0 = some (c, v)) :
    ∃ rt, i = .mtc0 rt (BitVec.ofNat 5 (cp0Number c)) 0#3 := by
  cases h with
  | cp0 rt rd sel d w instr names =>
    cases hc
    rw [cp0Of_eq_some] at names
    obtain ⟨rfl, ⟨rfl, rfl⟩ | ⟨rfl, rfl⟩ | ⟨rfl, rfl⟩ | ⟨rfl, rfl⟩⟩ := names <;> exact ⟨rt, instr⟩
  | value | transfer | load | store | multiplier => cases hc

theorem exec_hiLo {i : Instr} {s t : State} (h : exec i s = .next t) : HiLoKept s t ∨ WritesMultiplier i := by
  cases exec_outcome h with
  | trapped k a => exact .inl ⟨by simp, by simp⟩
  | halted => exact .inl ⟨rfl, rfl⟩
  | committed e v m block moved =>
    obtain ⟨_, k, mem, d, rfl⟩ := moved
    refine (operate_done_shape block).hiLo.imp_left ?_
    rintro ⟨hi, lo⟩
    exact ⟨by simp [hi], by simp [lo]⟩

theorem State.cp0_updatePc (s : State) (target : Option Word) (c : Cp0Reg) : (s.updatePc target).cp0 c = s.cp0 c :=
  State.cp0_congr (by simp) (by simp) (by simp) (by simp) c

/-- An instruction that does not trap leaves a Coprocessor 0 register, and one that does Status, unless it is the MTC0 of it. -/
theorem exec_cp0 {i : Instr} {s t : State} {c : Cp0Reg} (h : exec i s = .next t) (hc : c = .status ∨ t.run = .running) :
    t.cp0 c = s.cp0 c ∨ ∃ rt, i = .mtc0 rt (BitVec.ofNat 5 (cp0Number c)) 0#3 := by
  cases exec_outcome h with
  | trapped k a =>
    obtain ⟨_, _, _, status, _, run⟩ := State.takeTrap_fields s s.pc k a
    rcases hc with rfl | hc
    · exact .inl status
    · rw [run] at hc; cases hc
  | halted => exact .inl (State.cp0_congr rfl rfl rfl rfl c)
  | committed e v m block moved =>
    obtain ⟨_, k, mem, d, rfl⟩ := moved
    rw [State.cp0_updatePc, State.cp0_applySpecial]
    split
    next dest w written =>
      split
      next same =>
        subst same
        exact .inr ((operate_done_shape block).cp0_written written)
      next => exact .inl (State.cp0_setDest ..)
    next => exact .inl (State.cp0_setDest ..)

/-- Settles O16, by what the block of an instruction can yield. -/
theorem specialRegistersAreWrittenOnlyByTheirInstructions : Obligations.SpecialRegistersAreWrittenOnlyByTheirInstructions := by
  intro i s t h
  exact ⟨exec_hiLo h, exec_cp0 (c := .status) h (.inl rfl), fun _ running =>
    ⟨exec_cp0 (c := .epc) h (.inr running), exec_cp0 (c := .cause) h (.inr running), exec_cp0 (c := .badVAddr) h (.inr running)⟩⟩

/-! What no instruction reads. -/

/-- Status, the clock and the notifications of the cycle changed, by a function each. -/
def State.touch (p : Word → Word) (q : Nat → Nat) (r : List Notification → List Notification) (s : State) : State :=
  { s with cp0Status := p s.cp0Status, cycles := q s.cycles, events := r s.events }

/-- What a function of states does to the outcome of a read. -/
def Access.map (f : State → State) : Access → Access
  | .ok v s => .ok v (f s)
  | .trap k a => .trap k a

/-- What a function of states does to the outcome of a write. -/
def Stored.map (f : State → State) : Stored → Stored
  | .ok s => .ok (f s)
  | .trap k a => .trap k a

section
variable (p : Word → Word) (q : Nat → Nat) (r : List Notification → List Notification) (s : State)

@[simp] theorem State.touch_cfg : (s.touch p q r).cfg = s.cfg := rfl

theorem backendRead_touch (m : Memory) (g : Range) (a : Word) (n : Width) :
    (s.touch p q r).backendRead .cpu m g a n = ((s.backendRead .cpu m g a n).1, (s.backendRead .cpu m g a n).2.touch p q r) := by
  unfold State.backendRead
  split <;> rfl

theorem backendWrite_touch (g : Range) (a v : Word) (n : Width) :
    (s.touch p q r).backendWrite .cpu g a v n = (s.backendWrite .cpu g a v n).touch p q r := by
  unfold State.backendWrite
  split <;> rfl

theorem memRead_touch (a : Word) (n : Width) : (s.touch p q r).memRead a n = (s.memRead a n).map (State.touch p q r) := by
  simp only [State.memRead, State.touch_cfg, backendRead_touch]
  split
  · split
    · rfl
    · split <;> rfl
  · rfl

theorem memWrite_touch (a v : Word) (n : Width) : (s.touch p q r).memWrite a v n = (s.memWrite a v n).map (State.touch p q r) := by
  simp only [State.memWrite, State.touch_cfg, backendWrite_touch]
  split
  · split
    · rfl
    · split <;> rfl
  · rfl

theorem setDest_touch (dest : Option Reg) (v : Option Word) :
    (s.touch p q id).setDest dest v = (s.setDest dest v).touch p q id := by
  cases dest <;> cases v
  case some.some reg w =>
    simp only [State.setDest, State.setX]
    split <;> rfl
  all_goals rfl

theorem takeTrap_touch (pc : Word) (k : TrapKind) (a : Option Word) : (s.touch p q id).takeTrap pc k a = (s.takeTrap pc k a).touch p q id := by
  cases a <;> rfl

theorem updatePc_touch (target : Option Word) : (s.touch p q id).updatePc target = (s.updatePc target).touch p q id := by
  cases hd : s.cfg.delaySlot <;> simp only [State.updatePc, State.touch_cfg, hd, if_true, Bool.false_eq_true, if_false] <;> rfl

/-- The write of Status is the one that another Status shows in. -/
theorem applySpecial_touch {e : Effects} (h : ∀ v, e.cp0 = some (.status, v) → p = id) :
    (s.touch p q id).applySpecial e = (s.applySpecial e).touch p q id := by
  obtain ⟨_, _, hi, lo, cp0, _, drew⟩ := e
  rcases cp0 with _ | ⟨_ | _ | _ | _, v⟩
  case some.status =>
    obtain rfl := h v rfl
    cases hi <;> cases lo <;> cases drew <;> rfl
  all_goals cases hi <;> cases lo <;> cases drew <;> rfl

/-- The writes and the move of PC that end a commit. -/
theorem commitWrites_touch (dest : Option Reg) (v : Option Word) {e : Effects} (h : ∀ v, e.cp0 = some (.status, v) → p = id) :
    (((s.touch p q id).setDest dest v).applySpecial e).updatePc e.target =
      (((s.setDest dest v).applySpecial e).updatePc e.target).touch p q id := by
  rw [setDest_touch, applySpecial_touch p q _ h, updatePc_touch]

theorem commit_touch (dest : Option Reg) {o : OpOut} (h : ∀ e v, o = .done e → e.cp0 = some (.status, v) → p = id) :
    commit dest o (s.touch p q id) = mapNext (State.touch p q id) (commit dest o s) := by
  cases o with
  | trap k a => exact congrArg _ (takeTrap_touch p q s s.pc k a)
  | halt => rfl
  | refuse => rfl
  | done e =>
    have status := fun v => h e v rfl
    simp only [commit]
    split
    · exact congrArg _ (commitWrites_touch p q s dest _ status)
    next a n sg _ =>
      rw [memRead_touch]
      cases s.memRead a n with
      | trap k bad => exact congrArg Host.Outcome.next (takeTrap_touch p q s s.pc k (some bad))
      | ok v m => exact congrArg _ (commitWrites_touch p q m dest _ status)
    next a n v _ =>
      rw [memWrite_touch]
      cases s.memWrite a v n with
      | trap k bad => exact congrArg Host.Outcome.next (takeTrap_touch p q s s.pc k (some bad))
      | ok m => exact congrArg _ (commitWrites_touch p q (m.emit (.memory a n v)) dest _ status)

end

/-- R330: a block reads, besides its operands, the delay-slot setting, HI, LO, the draw counter and, if it is that of MFC0, the register that the
instruction names. -/
theorem operate_congr {i : Instr} {s t : State} (a b pc : Word) (cfg : t.cfg = s.cfg) (hi : t.hi = s.hi) (lo : t.lo = s.lo)
    (draws : t.draws = s.draws) (cp0 : ∀ rt rd sel c, i = .mfc0 rt rd sel → cp0Of rd sel = some c → t.cp0 c = s.cp0 c) :
    operate i a b pc t = operate i a b pc s := by
  cases i
  case mfc0 rt rd sel =>
    simp only [operate, opMfc0]
    split
    next c names => rw [cp0 rt rd sel c rfl names]
    next => rfl
  case div | divu => simp only [operate, draws]
  case mfhi => simp only [operate, hi]
  case mflo => simp only [operate, lo]
  case jalr | bltzal | bgezal | jal => simp only [operate, cfg]
  all_goals rfl

/-- No instruction but MFC0 and MTC0 of Status reads Status, and none the clock. -/
theorem exec_touch (p : Word → Word) (q : Nat → Nat) (i : Instr) (s : State)
    (mfc0 : ∀ rt, i = .mfc0 rt 12#5 0#3 → p = id) (mtc0 : ∀ rt, i = .mtc0 rt 12#5 0#3 → p = id) :
    exec i (s.touch p q id) = mapNext (State.touch p q id) (exec i s) := by
  have block (a b pc) : operate i a b pc (s.touch p q id) = operate i a b pc s := by
    refine operate_congr a b pc rfl rfl rfl rfl fun rt rd sel c instr names => ?_
    rw [cp0Of_eq_some] at names
    obtain ⟨rfl, ⟨rfl, rfl⟩ | ⟨rfl, rfl⟩ | ⟨rfl, rfl⟩ | ⟨rfl, rfl⟩⟩ := names
    case inr.inl => obtain rfl := mfc0 rt instr; rfl
    all_goals rfl
  have committed := commit_touch p q s (destOf i) (o := operate i (s.port (portA i)) (s.port (portB i)) s.pc s) fun e v done written =>
    have ⟨rt, instr⟩ := (operate_done_shape done).cp0_written written
    mtc0 rt instr
  have ports (r) : (s.touch p q id).port r = s.port r := by cases r <;> rfl
  rw [exec_eq, exec_eq, ports, ports, block]
  split
  · unfold commitControl
    by_cases slot : (s.cfg.delaySlot && s.pendingTarget.isSome) = true
    · rw [if_pos slot, if_pos (by exact slot)]
      rfl
    · rw [if_neg slot, if_neg (by exact slot)]
      exact committed
  · exact committed

/-- Settles O17: another Status is a change that the meaning carries along. -/
theorem statusHasNoEffect : Obligations.StatusHasNoEffect := by
  intro i s v mfc0 mtc0
  exact exec_touch (fun _ => v) id i s (fun rt h => (mfc0 rt h).elim) (fun rt h => (mtc0 rt h).elim)

/-- Settles O18: so is another clock, of which no instruction is an exception. -/
theorem noInstructionReadsTheCycleCounter : Obligations.NoInstructionReadsTheCycleCounter := by
  intro i s n
  exact exec_touch id (fun _ => n) i s (fun _ _ => rfl) (fun _ _ => rfl)

/-! Chains of notifications. -/

theorem chainValue_append (v : Word) (es fs : List Event) : chainValue v (es ++ fs) = (chainValue v es).bind (chainValue · fs) := by
  induction es generalizing v with
  | nil => rfl
  | cons e rest ih =>
    simp only [List.cons_append, chainValue]
    split
    · exact ih e.new
    · rfl

theorem eventsOf_append (kind : RegKind) (index : Nat) (es fs : List Notification) :
    eventsOf kind index (es ++ fs) = eventsOf kind index es ++ eventsOf kind index fs :=
  List.filterMap_append ..

/-- What a notification can name: PC, HI and LO have the index 0. -/
def NamesRegister (kind : RegKind) (index : Nat) : Prop := kind = .gp ∨ kind = .cp0 ∨ index = 0

/-- The registers that notifications speak of agree. -/
structure RegsAlike (s t : State) : Prop where
  gpr : t.gpr = s.gpr
  pc : t.pc = s.pc
  hi : t.hi = s.hi
  lo : t.lo = s.lo
  cp0 : ∀ c, t.cp0 c = s.cp0 c

theorem RegsAlike.regValue {s t : State} (h : RegsAlike s t) (kind : RegKind) (index : Nat) : t.regValue kind index = s.regValue kind index := by
  obtain ⟨gpr, pc, hi, lo, cp0⟩ := h
  have bad : t.badVAddr = s.badVAddr := cp0 .badVAddr
  have status : t.cp0Status = s.cp0Status := cp0 .status
  have cause : t.cause = s.cause := cp0 .cause
  have epc : t.epc = s.epc := cp0 .epc
  cases kind <;> simp only [State.regValue, State.x, gpr, pc, hi, lo, bad, status, cause, epc]

/-- The notifications `es` lead every register from its value in `s` to its value in `t`. -/
def Logged (s : State) (es : List Notification) (t : State) : Prop :=
  ∀ kind index, NamesRegister kind index → chainValue (s.regValue kind index) (eventsOf kind index es) = some (t.regValue kind index)

theorem Logged.trans {s u t : State} {es fs : List Notification} (h : Logged s es u) (k : Logged u fs t) : Logged s (es ++ fs) t := by
  intro kind index named
  rw [eventsOf_append, chainValue_append, h kind index named]
  exact k kind index named

theorem Logged.congr {s t u : State} {es : List Notification} (h : Logged s es t) (k : RegsAlike t u) : Logged s es u := by
  intro kind index named
  rw [k.regValue]
  exact h kind index named

/-- None of the notifications is of a register. -/
def Silent (es : List Notification) : Prop := ∀ kind index, eventsOf kind index es = []

theorem Silent.logged {s t : State} {es : List Notification} (h : Silent es) (k : RegsAlike s t) : Logged s es t := by
  intro kind index _
  rw [h kind index, k.regValue]
  rfl

theorem RegsAlike.refl (s : State) : RegsAlike s s := ⟨rfl, rfl, rfl, rfl, fun _ => rfl⟩

theorem silent_nil : Silent [] := fun _ _ => rfl

theorem silent_storeEvents (op : Option MemOp) : Silent (storeEvents op) := by
  rcases op with _ | (_ | _) <;> exact fun _ _ => rfl

theorem silent_memoryEvents (s : State) : Silent (memoryEvents s) := by
  unfold memoryEvents
  split
  · exact silent_nil
  · exact silent_storeEvents _

theorem silent_executeEvents (s : State) : Silent (executeEvents s) := by
  unfold executeEvents
  split
  · split <;> exact fun _ _ => rfl
  · exact silent_nil
  · exact silent_nil

/-- The notification of a write that changes one register. -/
theorem logged_register {s t : State} {kind : RegKind} {index : Nat} {new : Word}
    (h : ∀ k j, NamesRegister k j → t.regValue k j = if kind = k ∧ index = j then new else s.regValue k j) :
    Logged s [.register ⟨kind, index, s.regValue kind index, new⟩] t := by
  intro k j named
  rw [h k j named]
  by_cases same : kind = k ∧ index = j
  · obtain ⟨rfl, rfl⟩ := same
    simp [eventsOf, registerEvent, chainValue]
  · simp [eventsOf, registerEvent, chainValue, same]

theorem regValue_gp (s : State) (r : Reg) : s.regValue .gp r.toNat = s.x r := by
  simp [State.regValue, r.isLt]

theorem regValue_cp0 (s : State) (c : Cp0Reg) : s.regValue .cp0 (cp0Number c) = s.cp0 c := by
  cases c <;> rfl

theorem setX_logged {r : Reg} (hr : r ≠ 0#5) (v : Word) (s : State) : Logged s [.register ⟨.gp, r.toNat, s.x r, v⟩] (s.setX r v) := by
  rw [← regValue_gp]
  refine logged_register fun k j _ => ?_
  cases k
  case gp =>
    by_cases hj : j < 32
    · obtain ⟨q, rfl⟩ : ∃ q : Reg, q.toNat = j := ⟨BitVec.ofFin ⟨j, hj⟩, rfl⟩
      rw [regValue_gp, regValue_gp, State.x_setX]
      by_cases same : q = r
      · subst same; simp [hr]
      · have other : ¬ r.toNat = q.toNat := fun e => same (BitVec.eq_of_toNat_eq e.symm)
        simp [same, other]
    · have other : ¬ r.toNat = j := fun e => hj (e ▸ r.isLt)
      simp [State.regValue, hj, other]
  all_goals simp [State.regValue]

theorem setHi_logged (v : Word) (s : State) : Logged s [.register ⟨.hi, 0, s.hi, v⟩] (s.setHi v) :=
  logged_register (kind := .hi) fun k j named => by
    cases k <;> simp_all [State.regValue, NamesRegister, State.x]

theorem setLo_logged (v : Word) (s : State) : Logged s [.register ⟨.lo, 0, s.lo, v⟩] (s.setLo v) :=
  logged_register (kind := .lo) fun k j named => by
    cases k <;> simp_all [State.regValue, NamesRegister, State.x]

theorem setPc_logged (v : Word) (s : State) : Logged s [.register ⟨.pc, 0, s.pc, v⟩] (s.setPc v) :=
  logged_register (kind := .pc) fun k j named => by
    cases k <;> simp_all [State.regValue, NamesRegister, State.x]

theorem setCp0_logged (c : Cp0Reg) (v : Word) (s : State) : Logged s [.register ⟨.cp0, cp0Number c, s.cp0 c, v⟩] (s.setCp0 c v) := by
  rw [← regValue_cp0]
  refine logged_register fun k j _ => ?_
  cases k
  case cp0 =>
    by_cases same : cp0Number c = j
    · subst same
      simp [regValue_cp0, State.cp0_setCp0]
    · cases c <;> simp only [cp0Number] at same <;> simp [State.regValue, State.setCp0, cp0Number, same, Ne.symm same]
  all_goals simp [State.regValue, State.x]

/-! The notifications of each operation. -/

/-- Between `s` and `t` the notifications `es` are added, and they tell what becomes of every register. -/
structure Appends (s : State) (es : List Notification) (t : State) : Prop where
  events : t.events = s.events ++ es
  logged : Logged s es t

theorem Appends.trans {s u t : State} {es fs : List Notification} (h : Appends s es u) (k : Appends u fs t) : Appends s (es ++ fs) t :=
  ⟨by rw [k.events, h.events, List.append_assoc], h.logged.trans k.logged⟩

/-- The notification of the write of a destination register between `s` and `t`, where there is a value to write. -/
def destEvents (dest : Option Reg) (v : Option Word) (s t : State) : List Notification := if v = none then [] else gprEvents dest s t

theorem destEvents_eq {dest : Option Reg} {v : Option Word} (h : dest.isSome = true → v.isSome = true) (s t : State) :
    destEvents dest v s t = gprEvents dest s t := by
  cases dest with
  | none => simp [destEvents, gprEvents]
  | some r =>
    obtain ⟨w, rfl⟩ := Option.isSome_iff_exists.1 (h rfl)
    rfl

section
variable {s s' t t' : State}

theorem gprEvents_congr (hs : s'.gpr = s.gpr) (ht : t'.gpr = t.gpr) (dest : Option Reg) : gprEvents dest s' t' = gprEvents dest s t := by
  cases dest with
  | none => rfl
  | some r => simp only [gprEvents, State.x_congr hs, State.x_congr ht]

theorem writeBackEvents_congr (hs : s'.gpr = s.gpr) (ht : t'.gpr = t.gpr) (l : Latch MemWbSlot) :
    writeBackEvents l s' t' = writeBackEvents l s t := by
  cases l with
  | bubble => rfl
  | slot q => simp only [writeBackEvents, gprEvents_congr hs ht]

theorem specialEvents_congr (hi : s'.hi = s.hi) (lo : s'.lo = s.lo) (cp0 : ∀ c, s'.cp0 c = s.cp0 c) (e : Effects) :
    specialEvents e s' = specialEvents e s := by
  simp only [specialEvents, hi, lo, cp0]

theorem recordEvents_congr (hs : ∀ c, s'.cp0 c = s.cp0 c) (ht : ∀ c, t'.cp0 c = t.cp0 c) (a : Option Word) :
    recordEvents a s' t' = recordEvents a s t := by
  have bad : s'.badVAddr = s.badVAddr := hs .badVAddr
  have cause : s'.cause = s.cause := hs .cause
  have epc : s'.epc = s.epc := hs .epc
  have cause' : t'.cause = t.cause := ht .cause
  have epc' : t'.epc = t.epc := ht .epc
  simp only [recordEvents, bad, cause, epc, cause', epc']

theorem pcEvents_congr (hs : s'.pc = s.pc) (ht : t'.pc = t.pc) : pcEvents s' t' = pcEvents s t := by
  simp only [pcEvents, hs, ht]

end

theorem nothing_appended (s : State) : Appends s [] s := ⟨(List.append_nil _).symm, silent_nil.logged (.refl s)⟩

theorem emit_appends {e : Notification} (h : Silent [e]) (s : State) : Appends s [e] (s.emit e) :=
  ⟨rfl, h.logged ⟨rfl, rfl, rfl, rfl, State.cp0_congr rfl rfl rfl rfl⟩⟩

theorem halt_appends (s : State) : Appends s [] s.halt :=
  ⟨by simp, silent_nil.logged ⟨rfl, rfl, rfl, rfl, State.cp0_congr rfl rfl rfl rfl⟩⟩

theorem fetchWord_appends {s t : State} {m : Memory} {a w : Word} (h : s.fetchWord m a = .ok w t) : Appends s [] t := by
  obtain ⟨k, d, rfl⟩ := State.fetchWord_ok h
  exact ⟨by simp, silent_nil.logged ⟨rfl, rfl, rfl, rfl, State.cp0_congr rfl rfl rfl rfl⟩⟩

theorem DataMoved.alike {op : Option MemOp} {s m : State} (h : DataMoved op s m) : RegsAlike s m := by
  obtain ⟨_, k, mem, d, rfl⟩ := h
  exact ⟨rfl, rfl, rfl, rfl, State.cp0_congr rfl rfl rfl rfl⟩

theorem DataMoved.run {op : Option MemOp} {s m : State} (h : DataMoved op s m) : m.run = s.run := by
  obtain ⟨_, k, mem, d, rfl⟩ := h
  rfl

theorem DataMoved.appends {op : Option MemOp} {s m : State} (h : DataMoved op s m) : Appends s (storeEvents op) m := by
  refine ⟨?_, (silent_storeEvents op).logged h.alike⟩
  obtain ⟨_, k, mem, d, rfl⟩ := h
  rfl

theorem setPc_appends (pc : Word) (s : State) : Appends s (pcEvents s (s.setPc pc)) (s.setPc pc) := ⟨rfl, setPc_logged pc s⟩

/-- R21: the write of a destination register; that of register 0 is not notified. -/
theorem setDest_appends (dest : Option Reg) (v : Option Word) (s : State) :
    Appends s (destEvents dest v s (s.setDest dest v)) (s.setDest dest v) := by
  rcases dest with _ | r <;> rcases v with _ | w
  case some.some =>
    by_cases hr : r = 0#5
    · subst hr; exact nothing_appended s
    · have e : destEvents (some r) (some w) s (s.setDest (some r) (some w)) = [.register ⟨.gp, r.toNat, s.x r, w⟩] := by
        simp [destEvents, gprEvents, valueEvents, hr, State.x_setDest]
      rw [e]
      exact ⟨by simp [State.setDest, State.setX, hr], setX_logged hr w s⟩
  all_goals exact nothing_appended s

theorem drain_appends (l : Latch MemWbSlot) (s : State) : Appends s (writeBackEvents l s (s.drain l)) (s.drain l) := by
  cases l with
  | bubble => exact nothing_appended s
  | slot q => exact setDest_appends q.dest q.value s

/-- The special effects one after another: HI, LO, Coprocessor 0, and a draw. -/
theorem applySpecial_split (e : Effects) (s : State) :
    s.applySpecial e =
      (((s.applySpecial { hi := e.hi }).applySpecial { lo := e.lo }).applySpecial { cp0 := e.cp0 }).applySpecial { drew := e.drew } := by
  obtain ⟨_, _, hi, lo, cp0, _, drew⟩ := e
  cases hi <;> cases lo <;> cases cp0 <;> rfl

theorem applyHi_appends (hi : Option Word) (s : State) : Appends s (valueEvents .hi 0 s.hi hi) (s.applySpecial { hi := hi }) := by
  cases hi with
  | none => exact nothing_appended s
  | some v => exact ⟨rfl, setHi_logged v s⟩

theorem applyLo_appends (lo : Option Word) (s : State) : Appends s (valueEvents .lo 0 s.lo lo) (s.applySpecial { lo := lo }) := by
  cases lo with
  | none => exact nothing_appended s
  | some v => exact ⟨rfl, setLo_logged v s⟩

theorem setCp0_appends (c : Cp0Reg) (v : Word) (s : State) : Appends s (valueEvents .cp0 (cp0Number c) (s.cp0 c) (some v)) (s.setCp0 c v) :=
  ⟨by cases c <;> rfl, setCp0_logged c v s⟩

theorem applyCp0_appends (cp0 : Option (Cp0Reg × Word)) (s : State) :
    Appends s (specialEvents { cp0 := cp0 } s) (s.applySpecial { cp0 := cp0 }) := by
  rcases cp0 with _ | ⟨c, v⟩
  · exact nothing_appended s
  · exact setCp0_appends c v s

theorem applyDraw_appends (drew : Bool) (s : State) : Appends s [] (s.applySpecial { drew := drew }) := by
  cases drew with
  | false => exact nothing_appended s
  | true => exact ⟨(List.append_nil _).symm, silent_nil.logged ⟨rfl, rfl, rfl, rfl, State.cp0_congr rfl rfl rfl rfl⟩⟩

/-- R24, R362: the notifications of an instruction's special effects. -/
theorem applySpecial_appends (e : Effects) (s : State) : Appends s (specialEvents e s) (s.applySpecial e) := by
  rw [applySpecial_split]
  have hi := applyHi_appends e.hi s
  have lo := applyLo_appends e.lo (s.applySpecial { hi := e.hi })
  have cp0 := applyCp0_appends e.cp0 ((s.applySpecial { hi := e.hi }).applySpecial { lo := e.lo })
  have draw := applyDraw_appends e.drew (((s.applySpecial { hi := e.hi }).applySpecial { lo := e.lo }).applySpecial { cp0 := e.cp0 })
  have all := ((hi.trans lo).trans cp0).trans draw
  simpa [specialEvents, valueEvents, State.cp0_applySpecial] using all

/-- R376: the notifications of a trap's record. -/
theorem recordTrap_appends (pc : Word) (k : TrapKind) (a : Option Word) (s : State) :
    Appends s (recordEvents a s (s.recordTrap pc k a)) (s.recordTrap pc k a) := by
  have epc := setCp0_appends .epc pc s
  have cause := setCp0_appends .cause (causeAfter k s.cause) (s.setCp0 .epc pc)
  cases a with
  | none => exact (epc.trans cause).trans (nothing_appended _)
  | some bad => exact (epc.trans cause).trans (setCp0_appends .badVAddr bad _)

theorem takeTrap_appends (pc : Word) (k : TrapKind) (a : Option Word) (s : State) :
    Appends s (recordEvents a s (s.takeTrap pc k a) ++ pcEvents s (s.takeTrap pc k a)) (s.takeTrap pc k a) := by
  have recorded := recordTrap_appends pc k a s
  have moved := setPc_appends pc (s.recordTrap pc k a)
  have all := recorded.trans moved
  have same : RegsAlike ((s.recordTrap pc k a).setPc pc) (s.takeTrap pc k a) := ⟨rfl, rfl, rfl, rfl, State.cp0_congr rfl rfl rfl rfl⟩
  have record : recordEvents a s (s.takeTrap pc k a) = recordEvents a s (s.recordTrap pc k a) :=
    recordEvents_congr (fun _ => rfl) (State.cp0_congr rfl rfl rfl rfl) a
  have pcs : pcEvents s (s.takeTrap pc k a) = pcEvents (s.recordTrap pc k a) ((s.recordTrap pc k a).setPc pc) :=
    pcEvents_congr (by cases a <;> rfl) rfl
  rw [record, pcs]
  exact ⟨all.events, all.logged.congr same⟩

theorem updatePc_appends (target : Option Word) (s : State) : Appends s (pcEvents s (s.updatePc target)) (s.updatePc target) := by
  unfold State.updatePc
  split
  · have moved := setPc_appends (s.pendingTarget.getD (s.pc + 4#32)) s
    exact ⟨moved.events, moved.logged.congr ⟨rfl, rfl, rfl, rfl, State.cp0_congr rfl rfl rfl rfl⟩⟩
  · exact setPc_appends _ s

/-! The single-cycle core. -/

/-- R308, R376: the notifications that an instruction adds. -/
theorem exec_appends {i : Instr} {s t : State} (h : exec i s = .next t) :
    (∃ k a, t.run = .trapped k ∧ ((∃ b, a = some b) ↔ HasAddress k) ∧ Appends s (recordEvents a s t ++ pcEvents s t) t) ∨
    (t.run = .halted ∧ Appends s [] t) ∨
    (∃ e, t.run = s.run ∧ operate i (s.port (portA i)) (s.port (portB i)) s.pc s = .done e ∧
      Appends s (storeEvents e.memop ++ gprEvents (destOf i) s t ++ specialEvents e s ++ pcEvents s t) t) := by
  cases exec_outcome h with
  | trapped k a address => exact .inl ⟨k, a, by cases a <;> rfl, address, takeTrap_appends ..⟩
  | halted => exact .inr (.inl ⟨rfl, halt_appends s⟩)
  | committed e v m block moved value =>
    obtain ⟨gpr, pc, hi, lo, cp0⟩ := moved.alike
    have writes := destEvents_eq value m (m.setDest (destOf i) v)
    have dest := gprEvents_congr (t' := m.setDest (destOf i) v) (t := ((m.setDest (destOf i) v).applySpecial e).updatePc e.target)
      gpr (by simp) (destOf i)
    have special := specialEvents_congr (s' := m.setDest (destOf i) v) (s := s) (by simpa) (by simpa) (by simpa) e
    have advance := pcEvents_congr (s' := (m.setDest (destOf i) v).applySpecial e) (s := s)
      (t' := ((m.setDest (destOf i) v).applySpecial e).updatePc e.target) (by simpa) rfl
    have all := ((moved.appends.trans (setDest_appends (destOf i) v m)).trans (applySpecial_appends e _)).trans (updatePc_appends e.target _)
    rw [writes, dest, special, advance] at all
    exact .inr (.inr ⟨e, by simpa using moved.run, block, all⟩)

theorem Appends.of_exec {i : Instr} {s t : State} (h : exec i s = .next t) : ∃ es, Appends s es t := by
  rcases exec_appends h with ⟨_, _, _, _, added⟩ | ⟨_, added⟩ | ⟨_, _, _, added⟩ <;> exact ⟨_, added⟩

/-- The notifications of a step of the single-cycle core are added to none, and chain. -/
theorem stepSingle_appends {s t : State} (h : stepSingle s = .next t) : ∃ es, Appends s.beginCycle es t := by
  have fetchSilent (pc w) : Silent [.fetch pc w] := fun _ _ => rfl
  have executeSilent (pc i) : Silent [.execute pc i] := fun _ _ => rfl
  rcases stepSingle_cases s with ⟨_, e⟩ | ⟨_, _, e⟩ | ⟨_, _, ⟨_, _, _, e⟩ | ⟨w, s', hf, _, e⟩ | ⟨w, s', i, hf, _, e⟩⟩ <;> rw [e] at h
  · cases h; exact ⟨_, halt_appends _⟩
  · cases h
  · cases h; exact ⟨_, takeTrap_appends ..⟩
  · cases h
    exact ⟨_, ((fetchWord_appends hf).trans (emit_appends (fetchSilent s.pc w) s')).trans (takeTrap_appends ..)⟩
  · obtain ⟨es, executed⟩ := Appends.of_exec h
    have fetched := (fetchWord_appends hf).trans (emit_appends (fetchSilent s.pc w) s')
    exact ⟨_, (fetched.trans (emit_appends (executeSilent s'.pc i) _)).trans executed⟩

/-! The pipelined core. -/

/-- MEM reads neither Status nor the clock nor the notifications. -/
theorem memStage_touch (p : Word → Word) (q : Nat → Nat) (r : List Notification → List Notification) (s : State) :
    (∃ pc k a, memStage s = .trap pc k a ∧ memStage (s.touch p q r) = .trap pc k a) ∨
    (∃ mw m r', memStage s = .ok mw m ∧ memStage (s.touch p q r) = .ok mw (m.touch p q r')) := by
  have latch : (s.touch p q r).exMem = s.exMem := rfl
  rcases memStage_cases s with ⟨hx, e⟩ | ⟨x, hx, ⟨ho, e⟩ | ⟨a, n, sg, ho, ⟨k, bad, h, e⟩ | ⟨v, m, h, e⟩⟩ |
      ⟨a, n, v, ho, ⟨k, bad, h, e⟩ | ⟨m, h, e⟩⟩⟩
  · exact .inr ⟨_, s, r, e, by simp only [memStage, latch, hx]⟩
  · exact .inr ⟨_, s, r, e, by simp only [memStage, latch, hx, ho]⟩
  · exact .inl ⟨_, _, _, e, by simp only [memStage, latch, hx, ho, memRead_touch, h, Access.map]⟩
  · exact .inr ⟨_, m, r, e, by simp only [memStage, latch, hx, ho, memRead_touch, h, Access.map]⟩
  · exact .inl ⟨_, _, _, e, by simp only [memStage, latch, hx, ho, memWrite_touch, h, Stored.map]⟩
  · exact .inr ⟨_, _, fun _ => .memory a n v :: r m.events, e, by simp only [memStage, latch, hx, ho, memWrite_touch, h, Stored.map]; rfl⟩

theorem drain_gpr_congr {s t : State} (h : t.gpr = s.gpr) (l : Latch MemWbSlot) : (t.drain l).gpr = (s.drain l).gpr := by
  cases l with
  | bubble => exact h
  | slot x =>
    obtain ⟨_, _, value, dest⟩ := x
    rcases dest with _ | r <;> rcases value with _ | w
    case some.some =>
      simp only [State.drain, State.setDest, State.setX]
      split
      · exact h
      · simp only [h]
    all_goals exact h

/-- The drain of a latch moves the general registers and the notifications alone. -/
theorem drain_eq (l : Latch MemWbSlot) (s : State) :
    s.drain l = { s with gpr := (s.drain l).gpr, events := s.events ++ writeBackEvents l s (s.drain l) } := by
  rw [← (drain_appends l s).events]
  cases l with
  | bubble => rfl
  | slot x =>
    obtain ⟨_, _, value, dest⟩ := x
    rcases dest with _ | r <;> rcases value with _ | w
    case some.some =>
      simp only [State.drain, State.setDest, State.setX]
      split <;> rfl
    all_goals rfl

theorem beginCycle_drain (l : Latch MemWbSlot) (s : State) :
    s.beginCycle.drain l = (s.drain l).touch id (· + 1) (fun _ => writeBackEvents l s (s.drain l)) := by
  have gpr : (s.beginCycle.drain l).gpr = (s.drain l).gpr := drain_gpr_congr (s := s) (t := s.beginCycle) rfl l
  rw [drain_eq l s.beginCycle, writeBackEvents_congr rfl gpr, gpr]
  conv_rhs => rw [drain_eq l s]
  rfl

/-- WB of a cycle that begins: the clock has advanced, and the notifications are its own alone. -/
theorem beginCycle_writeBack (s : State) :
    s.beginCycle.writeBack = s.writeBack.touch id (· + 1) (fun _ => writeBackEvents s.memWb s s.writeBack) := by
  rw [State.writeBack_eq_drain, State.writeBack_eq_drain, State.beginCycle_memWb]
  exact beginCycle_drain s.memWb s

theorem memoryEvents_congr {s t : State} (h : t.exMem = s.exMem) : memoryEvents t = memoryEvents s := by
  simp only [memoryEvents, h]

theorem executeEvents_congr {s t : State} (cfg : t.cfg = s.cfg) (h : t.idEx = s.idEx) : executeEvents t = executeEvents s := by
  simp only [executeEvents, cfg, h]

/-- MEM leaves the registers, the latches and the configuration. -/
structure StageKept (s m : State) : Prop where
  cfg : m.cfg = s.cfg
  gpr : m.gpr = s.writeBack.gpr
  pc : m.pc = s.pc
  hi : m.hi = s.hi
  lo : m.lo = s.lo
  cp0 : ∀ c, m.cp0 c = s.cp0 c
  ifId : m.ifId = s.ifId
  idEx : m.idEx = s.idEx
  exMem : m.exMem = s.exMem
  memWb : m.memWb = s.memWb
  run : m.run = s.run

theorem memStage_kept {s m : State} {mw : Latch MemWbSlot} (h : memStage s.writeBack = .ok mw m) : StageKept s m := by
  obtain ⟨k, mem, d, rfl⟩ := memStage_ok h
  constructor
  case cp0 => exact State.cp0_congr (by simp) (by simp) (by simp) (by simp)
  all_goals simp

/-- R342: the state in which EX begins, after WB and MEM have left `m`: the clock has advanced, and the notifications are those of MEM and WB. -/
def afterMemory (s m : State) : State := m.touch id (· + 1) (fun _ => memoryEvents s ++ writeBackEvents s.memWb s m)

/-- WB and MEM of a cycle that begins, from WB and MEM of the state before it. -/
theorem memStage_beginCycle (s : State) :
    (∃ pc k a, memStage s.writeBack = .trap pc k a ∧ memStage s.beginCycle.writeBack = .trap pc k a) ∨
    (∃ mw m, memStage s.writeBack = .ok mw m ∧ memStage s.beginCycle.writeBack = .ok mw (afterMemory s m)) := by
  rw [beginCycle_writeBack]
  rcases memStage_touch id (· + 1) (fun _ => writeBackEvents s.memWb s s.writeBack) s.writeBack with trapped | ⟨mw, m, r, hm, e⟩
  · exact .inl trapped
  · refine .inr ⟨mw, m, hm, ?_⟩
    have kept := memStage_kept hm
    have events : r m.events = memoryEvents s ++ writeBackEvents s.memWb s m := by
      obtain ⟨k, mem, d, same⟩ := memStage_ok e
      have := congrArg State.events same
      rw [writeBackEvents_congr rfl kept.gpr]
      exact this.trans (congrArg (· ++ _) (memoryEvents_congr (State.writeBack_exMem s)))
    rw [e]
    simp only [afterMemory, State.touch, events]

theorem fwd_congr {s t : State} (cfg : t.cfg = s.cfg) (exMem : t.exMem = s.exMem) (memWb : t.memWb = s.memWb) (r : Option Reg) (v : Word) :
    t.fwd r v = s.fwd r v := by
  simp only [State.fwd, cfg, exMem, memWb]

/-! What a cycle notifies, from what its stages do to the registers. EX acts on HI, LO and Coprocessor 0, WB and the drain on the general registers,
so their order is free. -/

/-- WB, or the drain, of the latch `l` where EX has moved `s` to `u`. -/
theorem logged_writeBackEvents {s m u : State} (l : Latch MemWbSlot) (hu : u.gpr = s.gpr) (hm : m.gpr = (s.drain l).gpr) :
    Logged u (writeBackEvents l s m) { u with gpr := m.gpr } := by
  have gpr : (u.drain l).gpr = m.gpr := (drain_gpr_congr hu l).trans hm.symm
  rw [← writeBackEvents_congr hu gpr]
  exact (drain_appends l u).logged.congr ⟨gpr.symm, by simp, by simp, by simp, State.cp0_congr (by simp) (by simp) (by simp) (by simp)⟩

theorem logged_pcEvents {s t u : State} (hu : u.pc = s.pc) : Logged u (pcEvents s t) { u with pc := t.pc } := by
  rw [← pcEvents_congr (s' := u) (t' := u.setPc t.pc) (t := t) hu rfl]
  exact (setPc_appends t.pc u).logged.congr ⟨rfl, rfl, rfl, rfl, fun _ => rfl⟩

/-- What EX has done from `s` to `u`, with the notifications `ex`, then WB to `m`, the drain and the move of PC to `t`. -/
theorem logged_cycle {s u m t : State} {ex drained : List Notification} (executed : Logged s ex u) (gpr : u.gpr = s.gpr) (pc : u.pc = s.pc)
    (written : m.gpr = s.writeBack.gpr) (drain : Logged { u with gpr := m.gpr } drained { u with gpr := t.gpr })
    (hi : t.hi = u.hi) (lo : t.lo = u.lo) (cp0 : ∀ c, t.cp0 c = u.cp0 c) :
    Logged s (ex ++ writeBackEvents s.memWb s m ++ drained ++ pcEvents s t) t := by
  rw [State.writeBack_eq_drain] at written
  have wrote := executed.trans (logged_writeBackEvents s.memWb gpr written)
  have moved := (wrote.trans drain).trans (logged_pcEvents (t := t) pc)
  exact moved.congr ⟨rfl, rfl, hi, lo, cp0⟩

theorem Appends.of_cycle {s t : State} {es : List Notification} (events : t.events = es) (logged : Logged s es t) : Appends s.beginCycle es t :=
  ⟨events, fun kind index => logged kind index⟩

theorem stageTrap_events (before : List Notification) (pc : Word) (k : TrapKind) (a : Option Word) (s : State) :
    (s.stageTrap before pc k a).events =
      before ++ recordEvents a s (s.stageTrap before pc k a) ++ s.events ++ pcEvents s (s.stageTrap before pc k a) := by
  cases a <;> simp [State.stageTrap, State.recordTrap, State.latchBadVAddr, State.setCp0, State.setPc,
    recordEvents, valueEvents, pcEvents, cp0Number, State.cp0]

/-- R376: what a trap's record says of Coprocessor 0 depends on Coprocessor 0 alone. -/
theorem stageTrap_cp0 {s x : State} (h : ∀ c, x.cp0 c = s.cp0 c) (before : List Notification) (pc : Word) (k : TrapKind) (a : Option Word)
    (c : Cp0Reg) : (x.stageTrap before pc k a).cp0 c = (s.recordTrap pc k a).cp0 c := by
  have same : (x.stageTrap before pc k a).cp0 c = (x.recordTrap pc k a).cp0 c := by cases a <;> cases c <;> rfl
  have cause : (x.setCp0 .epc pc).cause = (s.setCp0 .epc pc).cause := h .cause
  rw [same]
  cases a <;> simp only [State.recordTrap, State.latchBadVAddr, cause, State.cp0_setCp0, h]

theorem stageTrap_record {s x : State} (h : ∀ c, x.cp0 c = s.cp0 c) (before : List Notification) (pc : Word) (k : TrapKind) (a : Option Word) :
    Logged s (recordEvents a s (x.stageTrap before pc k a)) (s.recordTrap pc k a) := by
  rw [recordEvents_congr (t := s.recordTrap pc k a) (fun _ => rfl) (stageTrap_cp0 h before pc k a)]
  exact (recordTrap_appends pc k a s).logged

theorem recordTrap_gpr (pc : Word) (k : TrapKind) (a : Option Word) (s : State) : (s.recordTrap pc k a).gpr = s.gpr := by cases a <;> rfl

theorem recordTrap_pc (pc : Word) (k : TrapKind) (a : Option Word) (s : State) : (s.recordTrap pc k a).pc = s.pc := by cases a <;> rfl

theorem recordTrap_hi (pc : Word) (k : TrapKind) (a : Option Word) (s : State) : (s.recordTrap pc k a).hi = s.hi := by cases a <;> rfl

theorem recordTrap_lo (pc : Word) (k : TrapKind) (a : Option Word) (s : State) : (s.recordTrap pc k a).lo = s.lo := by cases a <;> rfl

/-- R348: a cycle that stops in MEM. -/
theorem memTrap_appends {s t : State} {pc a : Word} {k : TrapKind} (ht : t = s.beginCycle.writeBack.stageTrap [] pc k (some a)) :
    Appends s.beginCycle (recordEvents (some a) s t ++ writeBackEvents s.memWb s t ++ pcEvents s t) t := by
  have cp0 (c) : s.beginCycle.writeBack.cp0 c = s.cp0 c := State.cp0_congr (by simp) (by simp) (by simp) (by simp) c
  have gpr : t.gpr = s.writeBack.gpr := by simp [ht, beginCycle_writeBack, State.touch]
  refine .of_cycle ?_ ?_
  · have wrote : s.beginCycle.writeBack.events = writeBackEvents s.memWb s t := by
      rw [beginCycle_writeBack, writeBackEvents_congr rfl gpr]
      rfl
    have events := stageTrap_events [] pc k (some a) s.beginCycle.writeBack
    rw [← ht, wrote, recordEvents_congr (s := s) cp0 (fun _ => rfl), pcEvents_congr (s := s) (by simp) rfl] at events
    exact events
  · have recorded := stageTrap_record cp0 [] pc k (some a)
    rw [← ht] at recorded
    have all := logged_cycle (t := t) (m := t) recorded rfl rfl gpr (silent_nil.logged (.refl _))
      (by simp [ht, recordTrap_hi]) (by simp [ht, recordTrap_lo]) (by rw [ht]; exact stageTrap_cp0 cp0 [] pc k (some a))
    rwa [List.append_nil] at all

/-- R348: a cycle that stops in EX, where the record of the trap, if there is one, has led from `s` to `u`. -/
theorem stop_appends {s u m t : State} {mw : Latch MemWbSlot} {record : List Notification} (hm : memStage s.writeBack = .ok mw m)
    (recorded : Logged s record u) (gpr : u.gpr = s.gpr) (pc : u.pc = s.pc)
    (events : t.events =
      executeEvents s ++ record ++ memoryEvents s ++ writeBackEvents s.memWb s m ++ writeBackEvents mw m t ++ pcEvents s t)
    (drained : t.gpr = (m.drain mw).gpr) (hi : t.hi = u.hi) (lo : t.lo = u.lo) (cp0 : ∀ c, t.cp0 c = u.cp0 c) :
    Appends s.beginCycle
      (executeEvents s ++ record ++ memoryEvents s ++ writeBackEvents s.memWb s m ++ writeBackEvents mw m t ++ pcEvents s t) t := by
  have executed := (((silent_executeEvents s).logged (.refl s)).trans recorded).trans ((silent_memoryEvents s).logged (.refl u))
  exact .of_cycle events
    (logged_cycle executed gpr pc (memStage_kept hm).gpr (logged_writeBackEvents (s := m) mw rfl drained) hi lo cp0)

theorem afterMemory_notices {s m : State} (kept : StageKept s m) : (afterMemory s m).executeNotices = executeEvents s := by
  rw [State.executeNotices_eq]
  exact executeEvents_congr kept.cfg kept.idEx

theorem afterMemory_alike (s m : State) (es : List Notification) : RegsAlike m { afterMemory s m with events := es } :=
  ⟨rfl, rfl, rfl, rfl, State.cp0_congr rfl rfl rfl rfl⟩

theorem exHalt_appends {s m t : State} {mw : Latch MemWbSlot} {pc : Word} (hm : memStage s.writeBack = .ok mw m)
    (ht : t = (({ afterMemory s m with events := (afterMemory s m).executeNotices ++ (afterMemory s m).events }.drain mw).setPc pc).halt) :
    Appends s.beginCycle
      (executeEvents s ++ [] ++ memoryEvents s ++ writeBackEvents s.memWb s m ++ writeBackEvents mw m t ++ pcEvents s t) t := by
  have kept := memStage_kept hm
  rw [afterMemory_notices kept] at ht
  obtain ⟨xgpr, xpc, xhi, xlo, xcp0⟩ := afterMemory_alike s m (executeEvents s ++ (afterMemory s m).events)
  have before : ({ afterMemory s m with events := executeEvents s ++ (afterMemory s m).events } : State).events =
    executeEvents s ++ (memoryEvents s ++ writeBackEvents s.memWb s m) := rfl
  generalize ({ afterMemory s m with events := executeEvents s ++ (afterMemory s m).events } : State) = x at *
  have gpr : t.gpr = (x.drain mw).gpr := by simp [ht]
  refine stop_appends hm (silent_nil.logged (.refl s)) rfl rfl ?_ (gpr.trans (drain_gpr_congr xgpr mw)) ?_ ?_ fun c => ?_
  · have wrote : writeBackEvents mw x (x.drain mw) = writeBackEvents mw m t := writeBackEvents_congr xgpr gpr.symm mw
    have moved : pcEvents (x.drain mw) ((x.drain mw).setPc pc) = pcEvents s t := pcEvents_congr (by simp [xpc, kept.pc]) (by simp [ht])
    have all := (((drain_appends mw x).trans (setPc_appends pc _)).trans (halt_appends _)).events
    rw [← ht, wrote, moved, before] at all
    simpa using all
  · simp [ht, xhi, kept.hi]
  · simp [ht, xlo, kept.lo]
  · rw [ht, ← kept.cp0 c, ← xcp0 c]
    exact State.cp0_congr (by simp) (by simp) (by simp) (by simp) c

theorem exTrap_appends {s m t : State} {mw : Latch MemWbSlot} {pc : Word} {k : TrapKind} {a : Option Word} (hm : memStage s.writeBack = .ok mw m)
    (ht : t = ((afterMemory s m).drain mw).stageTrap (afterMemory s m).executeNotices pc k a) :
    Appends s.beginCycle
      (executeEvents s ++ recordEvents a s t ++ memoryEvents s ++ writeBackEvents s.memWb s m ++ writeBackEvents mw m t ++ pcEvents s t) t := by
  have kept := memStage_kept hm
  rw [afterMemory_notices kept] at ht
  obtain ⟨xgpr, xpc, xhi, xlo, xcp0⟩ : RegsAlike m (afterMemory s m) := afterMemory_alike s m (afterMemory s m).events
  have before : (afterMemory s m).events = memoryEvents s ++ writeBackEvents s.memWb s m := rfl
  generalize afterMemory s m = x at *
  have gpr : t.gpr = (x.drain mw).gpr := by simp [ht]
  have cp0 (c) : (x.drain mw).cp0 c = s.cp0 c := by
    rw [← kept.cp0 c, ← xcp0 c]
    exact State.cp0_congr (by simp) (by simp) (by simp) (by simp) c
  have recorded := stageTrap_record cp0 (executeEvents s) pc k a
  rw [← ht] at recorded
  refine stop_appends hm recorded (recordTrap_gpr ..) (recordTrap_pc ..) ?_ (gpr.trans (drain_gpr_congr xgpr mw)) ?_ ?_ ?_
  · have wrote : writeBackEvents mw x (x.drain mw) = writeBackEvents mw m t := writeBackEvents_congr xgpr gpr.symm mw
    have all := stageTrap_events (executeEvents s) pc k a (x.drain mw)
    rw [← ht, (drain_appends mw x).events, wrote, before, recordEvents_congr (s := s) cp0 (fun _ => rfl),
      pcEvents_congr (s := s) (by simp [xpc, kept.pc]) rfl] at all
    simpa using all
  · simp [ht, xhi, kept.hi, recordTrap_hi]
  · simp [ht, xlo, kept.lo, recordTrap_lo]
  · rw [ht]
    exact stageTrap_cp0 cp0 (executeEvents s) pc k a

/-- R340: IF/ID next holds nothing, what it held, or what IF offers. -/
theorem frontNext_ifId (redirect : Option Word) (d : IdStage) (fetching : Bool) (offered : Latch IfIdSlot) (s : State) :
    (frontNext redirect d fetching offered s).ifId = .bubble ∨ (frontNext redirect d fetching offered s).ifId = s.ifId ∨
    (frontNext redirect d fetching offered s).ifId = offered := by
  unfold frontNext
  split
  · split
    · unfold redirectDelayed
      split
      next q hq =>
        dsimp only
        split
        · exact .inr (.inl hq.symm)
        · exact .inl rfl
      · split
        · exact .inr (.inr rfl)
        · exact .inl rfl
    · exact .inl rfl
  · unfold advance
    split
    · exact .inr (.inl rfl)
    · split
      · exact .inr (.inr rfl)
      · exact .inl rfl

/-- EX begins a cycle's notifications with that of the instruction it executes. -/
def exStart (s m : State) : State := { afterMemory s m with events := (afterMemory s m).executeNotices }

/-- What EX leaves where it goes on, in `u`, after WB and MEM have left `m`: its notifications, the registers, IF/ID and the status. -/
structure Executed (s m u : State) (special : List Notification) : Prop where
  events : u.events = executeEvents s ++ special
  logged : Logged s special { u with gpr := s.gpr }
  gpr : u.gpr = m.gpr
  pc : u.pc = s.pc
  ifId : u.ifId = s.ifId
  run : u.run = s.run
  bubble : s.idEx = .bubble → special = []
  instr : ∀ x i a b, s.idEx = .slot x → x.payload = .inst i a b →
    ∃ e, operate i (s.fwd (portA i) a) (s.fwd (portB i) b) x.pc m = .done e ∧ special = specialEvents e s

/-- R330: the block of an instruction in EX runs on what forwarding gives in `s`, and on HI, LO and Coprocessor 0 of `m`. -/
theorem operate_exStart {s m : State} (kept : StageKept s m) (i : Instr) (a b pc : Word) :
    operate i ((exStart s m).fwd (portA i) a) ((exStart s m).fwd (portB i) b) pc (exStart s m) =
      operate i (s.fwd (portA i) a) (s.fwd (portB i) b) pc m := by
  have fwd (r v) : (exStart s m).fwd r v = s.fwd r v := fwd_congr kept.cfg kept.exMem kept.memWb r v
  rw [fwd, fwd]
  exact operate_congr _ _ _ rfl rfl rfl rfl fun _ _ _ c _ _ => by cases c <;> rfl

theorem exStage_executed {s m u : State} {mw : Latch MemWbSlot} {em : Latch ExMemSlot} {rd : Option Word} (hm : memStage s.writeBack = .ok mw m)
    (h : exStage (exStart s m) = .ok em rd u) : ∃ special, Executed s m u special := by
  have kept := memStage_kept hm
  have latch : (exStart s m).idEx = s.idEx := kept.idEx
  have notices : (exStart s m).events = executeEvents s := afterMemory_notices kept
  have cp0 (c) : (exStart s m).cp0 c = s.cp0 c := by rw [← kept.cp0 c]; cases c <;> rfl
  rcases exStage_ok h with ⟨hb, _, _, rfl⟩ | ⟨q, i, a, b, e, hq, hp, _, _, ho, _, _, rfl⟩
  · rw [latch] at hb
    have same : RegsAlike s { exStart s m with gpr := s.gpr } :=
      ⟨rfl, kept.pc, kept.hi, kept.lo, fun c => (State.cp0_congr rfl rfl rfl rfl c).trans (cp0 c)⟩
    have added : (exStart s m).events = executeEvents s ++ [] := by rw [notices, List.append_nil]
    exact ⟨[], added, silent_nil.logged same, rfl, kept.pc, kept.ifId, kept.run, fun _ => rfl, by simp [hb]⟩
  · rw [latch] at hq
    rw [operate_exStart kept] at ho
    refine ⟨specialEvents e s, ⟨?_, ?_, ?_, ?_, ?_, ?_, ?_, ?_⟩⟩
    · have added := (applySpecial_appends e (exStart s m)).events
      rw [notices, specialEvents_congr (s' := exStart s m) (s := s) kept.hi kept.lo cp0] at added
      exact added
    · refine (applySpecial_appends e s).logged.congr ⟨by simp, ?_, ?_, ?_, fun c => ?_⟩
      · simp [exStart, afterMemory, State.touch, kept.pc]
      · simp [exStart, afterMemory, State.touch, kept.hi]
      · simp [exStart, afterMemory, State.touch, kept.lo]
      · refine (State.cp0_congr (s := (exStart s m).applySpecial e) rfl rfl rfl rfl c).trans ?_
        rw [State.cp0_applySpecial, State.cp0_applySpecial, cp0 c]
    · simp [exStart, afterMemory, State.touch]
    · simp [exStart, afterMemory, State.touch, kept.pc]
    · simp [exStart, afterMemory, State.touch, kept.ifId]
    · simp [exStart, afterMemory, State.touch, kept.run]
    · simp [hq]
    · intro x j c d hx hj
      rw [hq] at hx
      cases hx
      rw [hp] at hj
      cases hj
      exact ⟨e, ho, rfl⟩

/-- R342, R362: a cycle that goes on. -/
theorem running_appends {s m u t : State} {mw : Latch MemWbSlot} {em : Latch ExMemSlot} {special : List Notification} {f : Front} {fetching : Bool}
    (hm : memStage s.writeBack = .ok mw m) (executed : Executed s m u special)
    (ht : t = (ifStage s.mem fetching u).2.commitLatches f em mw (afterMemory s m).events) :
    t.run = s.run ∧ ∃ fetched,
      Appends s.beginCycle
        (fetched ++ executeEvents s ++ special ++ memoryEvents s ++ writeBackEvents s.memWb s t ++ pcEvents s t) t ∧
      ((fetched = [] ∧ ∀ w, (ifStage s.mem fetching u).1 ≠ .slot { pc := s.pc, payload := .word w }) ∨
        ∃ w, fetched = [.fetch s.pc w] ∧ (ifStage s.mem fetching u).1 = .slot { pc := s.pc, payload := .word w }) := by
  have kept := memStage_kept hm
  obtain ⟨k, d, fetched, hu, offer⟩ := ifStage_state s.mem fetching u
  rw [executed.pc] at offer
  rw [hu] at ht
  have gpr : t.gpr = m.gpr := by rw [ht]; exact executed.gpr
  have silent : Silent fetched := by
    rcases offer with ⟨rfl, _⟩ | ⟨w, rfl, _⟩
    · exact silent_nil
    · exact fun _ _ => rfl
  refine ⟨by rw [ht]; exact executed.run, fetched, .of_cycle ?_ ?_, offer⟩
  · have moved := (setPc_appends f.pc u).events
    rw [writeBackEvents_congr rfl gpr, pcEvents_congr (s' := s) (s := u) (t' := t) (t := u.setPc f.pc) executed.pc.symm (by rw [ht]; rfl)]
    have added : t.events = fetched ++ u.events ++ (memoryEvents s ++ writeBackEvents s.memWb s m) ++ pcEvents u (u.setPc f.pc) := by
      rw [ht]; rfl
    rw [added, executed.events]
    simp
  · have fetchedFirst := (silent.logged (.refl s)).trans ((silent_executeEvents s).logged (.refl s))
    have before := (fetchedFirst.trans executed.logged).trans ((silent_memoryEvents s).logged (.refl _))
    have all := logged_cycle (t := t) (m := t) before rfl executed.pc (gpr.trans kept.gpr) (silent_nil.logged (.refl _))
      (by rw [ht]; rfl) (by rw [ht]; rfl) (fun c => by rw [ht]; cases c <;> rfl)
    rwa [List.append_nil] at all

/-- R323, R371: where the faults carried are those of R323, a trap in EX has an address exactly where its kind has one. -/
theorem exStage_trap_address {s : State} {pc : Word} {k : TrapKind} {a : Option Word} (h : exStage s = .trap pc k a)
    (carried : ∀ q k', s.idEx = .slot q → q.payload = .fault k' → CarriedKind k') : (∃ b, a = some b) ↔ HasAddress k := by
  rcases exStage_cases s with ⟨_, e⟩ | ⟨q, hq, ⟨_, e⟩ | ⟨_, ⟨kind, hp, e⟩ |
      ⟨i, a', b, _, ⟨_, _, e⟩ | ⟨_, ⟨kind, ad, ho, e⟩ | ⟨_, e⟩ | ⟨_, _, e⟩ | ⟨f, _, e⟩⟩⟩⟩⟩ <;>
    rw [e] at h <;> cases h
  · rcases carried q k hq hp with rfl | rfl <;> simp [carriedAddr, HasAddress]
  · have shape := operate_shape i (s.fwd (portA i) a') (s.fwd (portB i) b) q.pc s
    rw [ho] at shape
    cases shape with
    | trap _ _ address => exact address

/-- R42, R348, R362: what a cycle of the pipelined core notifies: it stops in MEM, or in EX, or goes on. -/
inductive CycleOutcome (s t : State) : Prop where
  | stopsInMem (pc : Word) (k : TrapKind) (a : Word) (trap : memStage s.writeBack = .trap pc k a) (run : t.run = .trapped k)
      (added : Appends s.beginCycle (recordEvents (some a) s t ++ writeBackEvents s.memWb s t ++ pcEvents s t) t)
  | stopsInEx (mw : Latch MemWbSlot) (m : State) (record : List Notification) (mem : memStage s.writeBack = .ok mw m)
      (added : Appends s.beginCycle
        (executeEvents s ++ record ++ memoryEvents s ++ writeBackEvents s.memWb s m ++ writeBackEvents mw m t ++ pcEvents s t) t)
      (recorded : (t.run = .halted ∧ record = []) ∨
        ∃ k a, t.run = .trapped k ∧ record = recordEvents a s t ∧
          ((∀ q k', s.idEx = .slot q → q.payload = .fault k' → CarriedKind k') → ((∃ b, a = some b) ↔ HasAddress k)))
  | goesOn (mw : Latch MemWbSlot) (m : State) (fetched special : List Notification) (mem : memStage s.writeBack = .ok mw m)
      (run : t.run = s.run)
      (added : Appends s.beginCycle
        (fetched ++ executeEvents s ++ special ++ memoryEvents s ++ writeBackEvents s.memWb s t ++ pcEvents s t) t)
      (fetch : fetched = [] ∨ ∃ w, fetched = [.fetch s.pc w])
      (enters : ∀ w, t.ifId = .slot { pc := s.pc, payload := .word w } → t.ifId ≠ s.ifId → fetched = [.fetch s.pc w])
      (bubble : s.idEx = .bubble → special = [])
      (instr : ∀ x i a b, s.idEx = .slot x → x.payload = .inst i a b →
        ∃ e, operate i (s.fwd (portA i) a) (s.fwd (portB i) b) x.pc m = .done e ∧ special = specialEvents e s)

theorem stepPipelined_outcome {s t : State} (h : stepPipelined s = .next t) : CycleOutcome s t := by
  rcases memStage_beginCycle s with ⟨pc, k, a, hm, begun⟩ | ⟨mw, m, hm, begun⟩
  · rcases stepPipelined_cases h with ⟨_, _, _, hm', ht⟩ | ⟨_, _, hm', _⟩ <;> rw [begun] at hm' <;> cases hm'
    exact .stopsInMem pc k a hm (by rw [ht]; rfl) (memTrap_appends ht)
  · have kept := memStage_kept hm
    rcases stepPipelined_cases h with ⟨_, _, _, hm', _⟩ | ⟨_, _, hm', stages⟩ <;> rw [begun] at hm' <;> cases hm'
    rcases stages with ⟨pc, _, ht⟩ | ⟨pc, k, a, hx, ht⟩ | ⟨em, rd, u, fetching, hx, _, _, ht⟩
    · exact .stopsInEx mw m [] hm (exHalt_appends hm ht) (.inl ⟨by rw [ht]; rfl, rfl⟩)
    · have address (carried : ∀ q k', s.idEx = .slot q → q.payload = .fault k' → CarriedKind k') : (∃ b, a = some b) ↔ HasAddress k :=
        exStage_trap_address hx fun q k' hq => carried q k' (kept.idEx ▸ hq)
      exact .stopsInEx mw m _ hm (exTrap_appends hm ht) (.inr ⟨k, a, by rw [ht]; cases a <;> rfl, rfl, address⟩)
    · obtain ⟨special, executed⟩ := exStage_executed hm hx
      obtain ⟨run, fetched, added, offer⟩ := running_appends hm executed ht
      have latch : t.ifId = (frontNext rd (idStage u) fetching (ifStage s.mem fetching u).1 u).ifId := by rw [ht]; rfl
      refine .goesOn mw m fetched special hm run added ?_ (fun w entered moved => ?_) executed.bubble executed.instr
      · rcases offer with ⟨no, _⟩ | ⟨w, one, _⟩
        · exact .inl no
        · exact .inr ⟨w, one⟩
      · rcases frontNext_ifId rd (idStage u) fetching (ifStage s.mem fetching u).1 u with next | next | next <;> rw [next] at latch
        · rw [latch] at entered; cases entered
        · exact (moved (latch.trans executed.ifId)).elim
        · rw [latch] at entered
          rcases offer with ⟨_, noWord⟩ | ⟨v, one, word⟩
          · exact (noWord w entered).elim
          · rw [word] at entered
            cases entered
            exact one

theorem CycleOutcome.appends {s t : State} (h : CycleOutcome s t) : ∃ es, Appends s.beginCycle es t := by
  cases h with
  | stopsInMem _ _ _ _ _ added => exact ⟨_, added⟩
  | stopsInEx _ _ _ _ added => exact ⟨_, added⟩
  | goesOn _ _ _ _ _ _ added => exact ⟨_, added⟩

/-- R348: the clause of a stop in MEM. -/
theorem CycleOutcome.of_memTrap {s t : State} {pc a : Word} {k : TrapKind} (h : CycleOutcome s t) (hm : memStage s.writeBack = .trap pc k a) :
    t.events = recordEvents (some a) s t ++ writeBackEvents s.memWb s t ++ pcEvents s t := by
  cases h with
  | stopsInMem _ _ _ trap _ added =>
    rw [trap] at hm
    cases hm
    exact added.events
  | stopsInEx _ _ _ mem => rw [mem] at hm; cases hm
  | goesOn _ _ _ _ mem => rw [mem] at hm; cases hm

/-- R348: the clause of a stop in EX. -/
theorem CycleOutcome.of_stop {s t m : State} {mw : Latch MemWbSlot} (h : CycleOutcome s t) (hr : s.run = .running) (ht : t.run ≠ .running)
    (hm : memStage s.writeBack = .ok mw m) :
    ∃ record,
      t.events = executeEvents s ++ record ++ memoryEvents s ++ writeBackEvents s.memWb s m ++ writeBackEvents mw m t ++ pcEvents s t ∧
      (t.run = .halted → record = []) ∧
      ∀ k, t.run = .trapped k → ∃ a, record = recordEvents a s t ∧
        ((∀ q k', s.idEx = .slot q → q.payload = .fault k' → CarriedKind k') → ((∃ b, a = some b) ↔ HasAddress k)) := by
  cases h with
  | stopsInMem _ _ _ trap => rw [trap] at hm; cases hm
  | stopsInEx _ _ record mem added recorded =>
    rw [mem] at hm
    cases hm
    refine ⟨record, added.events, fun halted => ?_, fun k trapped => ?_⟩
    · rcases recorded with ⟨_, noRecord⟩ | ⟨_, _, run, _⟩
      · exact noRecord
      · rw [run] at halted; cases halted
    · rcases recorded with ⟨run, _⟩ | ⟨_, a, run, record, address⟩ <;> rw [run] at trapped <;> cases trapped
      exact ⟨a, record, address⟩
  | goesOn _ _ _ _ _ run => exact (ht (run.trans hr)).elim

/-- R362: the clause of a cycle that goes on. -/
theorem CycleOutcome.of_running {s t : State} (h : CycleOutcome s t) (ht : t.run = .running) :
    ∃ fetched special,
      t.events = fetched ++ executeEvents s ++ special ++ memoryEvents s ++ writeBackEvents s.memWb s t ++ pcEvents s t ∧
      (fetched = [] ∨ ∃ w, fetched = [.fetch s.pc w]) ∧
      (∀ w, t.ifId = .slot { pc := s.pc, payload := .word w } → t.ifId ≠ s.ifId → fetched = [.fetch s.pc w]) ∧
      (s.idEx = .bubble → special = []) ∧
      ∀ x i a b mw m, s.idEx = .slot x → x.payload = .inst i a b → memStage s.writeBack = .ok mw m →
        ∃ e, operate i (s.fwd (portA i) a) (s.fwd (portB i) b) x.pc m = .done e ∧ special = specialEvents e s := by
  cases h with
  | stopsInMem _ _ _ _ run => rw [run] at ht; cases ht
  | stopsInEx _ _ _ _ _ recorded => rcases recorded with ⟨run, _⟩ | ⟨_, _, run, _⟩ <;> rw [run] at ht <;> cases ht
  | goesOn _ _ fetched special mem _ added fetch enters bubble instr =>
    refine ⟨fetched, special, added.events, fetch, enters, bubble, fun x i a b mw m hx hp hm => ?_⟩
    rw [mem] at hm
    cases hm
    exact instr x i a b hx hp

/-! Each write once. -/

/-- R24: the notifications of a running step chain from the value before the step to that after it. -/
theorem step_chain {s t : State} (hr : s.run = .running) (h : step s = .next t) : Logged s t.events t := by
  have cycle : ∃ es, Appends s.beginCycle es t := by
    rcases step_cases h with ⟨stopped, _⟩ | ⟨_, _, _, h⟩ | ⟨_, _, _, h⟩
    · exact (stopped hr).elim
    · exact stepSingle_appends h
    · exact (stepPipelined_outcome h).appends
  obtain ⟨es, events, logged⟩ := cycle
  rw [show t.events = es from events]
  exact fun kind index => logged kind index

/-- R308: the notifications of an instruction on the single-cycle core. -/
theorem exec_notified {i : Instr} {s t : State} (hr : s.run = .running) (h : exec i s = .next t) :
    (∀ e, t.run = .running → operate i (s.port (portA i)) (s.port (portB i)) s.pc s = .done e →
      t.events = s.events ++ storeEvents e.memop ++ gprEvents (destOf i) s t ++ specialEvents e s ++ pcEvents s t) ∧
    (∀ k, t.run = .trapped k →
      ∃ a, ((∃ b, a = some b) ↔ HasAddress k) ∧ t.events = s.events ++ recordEvents a s t ++ pcEvents s t) ∧
    (t.run = .halted → t.events = s.events) := by
  rcases exec_appends h with ⟨k, a, run, address, events, _⟩ | ⟨run, events, _⟩ | ⟨e, run, block, events, _⟩
  · refine ⟨?_, ?_, ?_⟩
    · simp [run]
    · intro k' trapped
      rw [run] at trapped
      cases trapped
      exact ⟨a, address, by rw [events, List.append_assoc]⟩
    · simp [run]
  · simp [run, events]
  · rw [hr] at run
    refine ⟨?_, ?_, ?_⟩
    · intro e' _ done
      rw [block] at done
      cases done
      simpa using events
    · simp [run]
    · simp [run]

/-- Settles O15: on both cores each operation notifies what it writes, and what the stages of the pipelined core write is apart, so that their
order is that of the stages. -/
theorem everyRegisterWriteIsNotifiedOnce : Obligations.EveryRegisterWriteIsNotifiedOnce := by
  refine ⟨fun s t kind index hr h named => ?_, fun i s t => exec_notified, fun s t hr hp h => ?_⟩
  · exact step_chain hr h kind index (named.imp And.left id)
  · have outcome : CycleOutcome s t := by
      rw [step_running hr, hp] at h
      split at h
      · exact stepPipelined_outcome h
      · cases h
    exact ⟨outcome.of_running, fun _ _ _ => outcome.of_memTrap, fun _ _ ht hm => outcome.of_stop hr ht hm⟩

end Sys2Proof.Machine

/-! PROOFS of the statements of 20_memory.md: a data read and a data write of RAM under the invariant of the data side (R64, R66, R67), and
load-range (R71). -/

namespace Sys2Proof.Machine

/-! The invariant of the data side. -/

/-- The bytes of the word of an address that is not served by the data cache are seen in memory: no line holds its block. -/
theorem DataInv.dataByte_uncached {s : State} (h : DataInv s) {a b : Word} {r : Range} (hr : rangeOf s.cfg a = some r)
    (hc : s.cfg.dCache.enabled = false ∨ r.uncached = true) (hb : b.toNat / 4 = a.toNat / 4) : s.dataByte b = s.mem.byte b := by
  cases he : s.cfg.dCache.enabled with
  | false => exact State.dataByte_off he b
  | true =>
    have hu : ∀ q, rangeOf s.cfg a = some q → q.uncached = true := by simpa [hr, he] using hc
    have lines := (h.caches.data he).1.lines
    have words := ((geometry_of_wellFormed h.config).2 he).2.1
    obtain ⟨set, tag, _⟩ := same_word (c := s.cfg.dCache) hb
    rw [State.dataByte_on h.config he lines]
    refine Cache.seen_of_no_line s.mem fun w valid => ?_
    rw [set] at valid ⊢
    rw [tag]
    exact no_line_of_uncached h.config words lines hu w valid

/-- The data cache and memory replaced together: what the invariant then asks of them. -/
theorem DataInv.replaceData {s : State} (h : DataInv s) {k : Cache} {m : Memory} (hm : m.wf = true)
    (hk : s.cfg.dCache.enabled = true → CacheInv s.cfg s.cfg.dCache k ∧ CleanAgrees s.cfg.dCache k m) :
    DataInv { s with dCache := k, mem := m } :=
  ⟨h.config, hm, ⟨h.caches.instruction, hk⟩⟩

/-- With the data cache enabled, the data side after its cache and memory are replaced. -/
theorem State.dataByte_replaceData {s : State} (hg : s.cfg.wellFormed = true) (he : s.cfg.dCache.enabled = true) {k : Cache} {m : Memory}
    (hk : CacheInv s.cfg s.cfg.dCache k) (b : Word) : { s with dCache := k, mem := m }.dataByte b = k.seen s.cfg.dCache m b :=
  State.dataByte_on (s := { s with dCache := k, mem := m }) hg he hk.lines b

/-- A byte of memory that a change of memory leaves is seen as before, whatever the data cache holds. -/
theorem State.dataByte_congr_mem {s : State} {m : Memory} {b : Word} (h : m.byte b = s.mem.byte b) :
    { s with mem := m }.dataByte b = s.dataByte b := by
  simp only [State.dataByte, h]

/-! The bytes of an access. -/

theorem wordBase_div (a : Word) : (wordBase a).toNat / 4 = a.toNat / 4 := by
  have := wordBase_toNat a
  omega

theorem wordBase_aligned (a : Word) : (wordBase a).toNat % 4 = 0 := by
  have := wordBase_toNat a
  omega

/-- An aligned access touches the bytes from its address up, none of them past the top of the address space. -/
theorem touches_add {a : Word} {n : Width} (ha : alignedTo a n = true) {j : Nat} (hj : j < widthBytes n) :
    touches a n (a + BitVec.ofNat 32 j) := by
  have aligned : a.toNat % widthBytes n = 0 := by simpa [alignedTo] using ha
  have below := a.isLt
  have address : (a + BitVec.ofNat 32 j).toNat = a.toNat + j := by
    rw [BitVec.toNat_add, BitVec.toNat_ofNat]
    cases n <;> simp only [widthBytes] at aligned hj <;> omega
  simp only [touches, address]
  omega

/-- R64: where an access touches only bytes that are seen as memory has them, its value is what memory reads as. -/
theorem State.dataValue_eq_read {s : State} {m : Memory} {a : Word} {n : Width} (ha : alignedTo a n = true)
    (h : ∀ b, touches a n b → s.dataByte b = m.byte b) : s.dataValue a n = m.read a n := by
  have first : s.dataByte a = m.byte a := by simpa using h _ (touches_add ha (j := 0) (by cases n <;> decide))
  cases n with
  | byte => simp only [State.dataValue, Memory.read, first]
  | half =>
    have second := h _ (touches_add ha (j := 1) (by decide))
    simp only [State.dataValue, Memory.read, first, second]
  | word =>
    have second := h _ (touches_add ha (j := 1) (by decide))
    have third := h _ (touches_add ha (j := 2) (by decide))
    have fourth := h _ (touches_add ha (j := 3) (by decide))
    simp only [State.dataValue, Memory.read, Memory.word, wordOfBytes, first, second, third, fourth]

/-- R64, R66: a word whose bytes the data side sees gives, by selection, the value that the data side has at an address in it. -/
theorem State.selectBytes_eq_dataValue {s : State} {w a : Word} {n : Width} (ha : alignedTo a n = true)
    (h : ∀ b : Word, b.toNat / 4 = a.toNat / 4 → byteOfWord w (b.toNat % 4) = s.dataByte b) : selectBytes w a n = s.dataValue a n := by
  rw [selectBytes_eq w a n ha s.dataByte h]
  cases n <;> rfl

/-- R62: the range of an address of RAM is no peripheral's. -/
theorem State.inRam.not_peripheral {s : State} {a : Word} (h : s.inRam a) {r : Range} (hr : rangeOf s.cfg a = some r) {d : Nat} :
    r.backend ≠ .peripheral d := by
  obtain ⟨q, hq, ram⟩ := h
  obtain rfl : r = q := Option.some.inj (hr.symm.trans hq)
  simp [ram]

/-! A data read. -/

/-- R66, R105: a read through the data cache, by what the cache yields for the word of the address. -/
theorem DataInv.readWord {s : State} (h : DataInv s) (he : s.cfg.dCache.enabled = true) {a : Word} {r : Range}
    (hr : rangeOf s.cfg a = some r) (hu : r.uncached = false) :
    let o := s.dCache.readWord s.cfg.dCache .data s.mem (wordBase a)
    (∀ b : Word, b.toNat / 4 = a.toNat / 4 → byteOfWord o.1 (b.toNat % 4) = s.dataByte b) ∧
    (∀ b, { s with dCache := o.2.1, mem := o.2.2 }.dataByte b = s.dataByte b) ∧
    DataInv { s with dCache := o.2.1, mem := o.2.2 } := by
  obtain ⟨inv, clean⟩ := h.caches.data he
  have geometry := (geometry_of_wellFormed h.config).2 he
  have placed : blockPlaced s.cfg s.cfg.dCache (tagIndex s.cfg.dCache (wordBase a)) (setIndex s.cfg.dCache (wordBase a)) := by
    obtain ⟨set, tag, _⟩ := same_word (c := s.cfg.dCache) (wordBase_div a)
    rw [set, tag]
    exact blockPlaced_of_range h.config (.inr rfl) he geometry.2.1 hr hu
  have before := State.dataByte_on h.config he inv.lines
  obtain ⟨word, seen, wf, clean'⟩ := Cache.readWord_seen h.config geometry inv .data h.memory clean placed
  obtain ⟨inv', _⟩ := Cache.readWord_inv geometry inv .data s.mem placed
  refine ⟨fun b hb => ?_, fun b => ?_, h.replaceData wf fun _ => ⟨inv', clean'⟩⟩
  · rw [before]
    exact word b (by rw [hb, wordBase_div])
  · rw [before, State.dataByte_replaceData h.config he inv', seen]

/-- R66: a read that succeeds changes no byte that the data side sees, in RAM or not, and keeps the invariant. -/
theorem memRead_kept {s s' : State} {a v : Word} {n : Width} (h : DataInv s) (hm : s.memRead a n = .ok v s') :
    (∀ b, s'.dataByte b = s.dataByte b) ∧ DataInv s' := by
  rcases State.memRead_cases s a n with ⟨_, e⟩ | ⟨_, _, e⟩ | ⟨r, _, hr, ⟨he, hu, e⟩ | ⟨_, _, e⟩ | ⟨_, _, e⟩⟩ <;> rw [e] at hm <;> cases hm
  · exact (h.readWord he hr hu).2
  · exact ⟨fun _ => rfl, h⟩
  · exact ⟨fun _ => rfl, h.config, h.memory, h.caches.instruction, h.caches.data⟩

/-- R64, R66: a read of RAM that succeeds yields the value of the data side. -/
theorem memRead_value {s s' : State} {a v : Word} {n : Width} (h : DataInv s) (hram : s.inRam a) (hm : s.memRead a n = .ok v s') :
    v = s.dataValue a n := by
  rcases State.memRead_cases s a n with ⟨_, e⟩ | ⟨_, _, e⟩ | ⟨r, ha, hr, ⟨he, hu, e⟩ | ⟨hc, _, e⟩ | ⟨_, ⟨_, peripheral⟩, e⟩⟩ <;>
    rw [e] at hm <;> cases hm
  · exact State.selectBytes_eq_dataValue ha (h.readWord he hr hu).1
  · exact (State.dataValue_eq_read ha fun b hb => h.dataByte_uncached hr hc (touched_word ha hb)).symm
  · exact (hram.not_peripheral hr peripheral).elim

/-! A data write. -/

/-- R67: the bytes that the data side sees in `t` are those of `s`, but for those of the store of `v` with width `n` at `a`. -/
def Stores (a v : Word) (n : Width) (s t : State) : Prop :=
  ∀ b, t.dataByte b = if touches a n b then storedByte v a b n else s.dataByte b

/-- R67, R110 to R113: a write through the data cache, under every write policy. -/
theorem DataInv.write {s : State} (h : DataInv s) (he : s.cfg.dCache.enabled = true) {a : Word} {n : Width} {r : Range}
    (ha : alignedTo a n = true) (hr : rangeOf s.cfg a = some r) (hu : r.uncached = false) (v : Word) :
    let o := s.dCache.write s.cfg.dCache .data s.mem a v n
    Stores a v n s { s with dCache := o.1, mem := o.2 } ∧ DataInv { s with dCache := o.1, mem := o.2 } := by
  obtain ⟨inv, clean⟩ := h.caches.data he
  have geometry := (geometry_of_wellFormed h.config).2 he
  have placed := blockPlaced_of_range h.config (.inr rfl) he geometry.2.1 hr hu
  obtain ⟨inv', _, wf, clean', seen⟩ := Cache.write_spec h.config geometry .data inv h.memory clean ha placed v
  refine ⟨fun b => ?_, h.replaceData wf fun _ => ⟨inv', clean'⟩⟩
  rw [State.dataByte_replaceData h.config he inv', seen, State.dataByte_on h.config he inv.lines]
  split
  next hb => exact (storedByte_eq v a b n hb).symm
  next => rfl

/-- R67, R69: a write past the data cache, straight to RAM. -/
theorem DataInv.writeMemory {s : State} (h : DataInv s) {a : Word} {n : Width} {r : Range} (ha : alignedTo a n = true)
    (hr : rangeOf s.cfg a = some r) (hc : s.cfg.dCache.enabled = false ∨ r.uncached = true) (v : Word) :
    Stores a v n s { s with mem := s.mem.write a v n } ∧ DataInv { s with mem := s.mem.write a v n } := by
  have inv : DataInv { s with mem := s.mem.write a v n } := by
    refine h.replaceData (Memory.wf_write h.memory a v n) fun he => ?_
    obtain ⟨inv, clean⟩ := h.caches.data he
    have words := ((geometry_of_wellFormed h.config).2 he).2.1
    exact ⟨inv, clean.uncachedWrite h.config words inv.lines h.memory ha v (by simpa [hr, he] using hc)⟩
  have bytes := Memory.byte_write h.memory (n := n) (a := a) (by simpa [alignedTo] using ha) v
  refine ⟨fun b => ?_, inv⟩
  split
  next hb =>
    rw [inv.dataByte_uncached hr hc (touched_word ha hb), storedByte_eq v a b n hb]
    exact (bytes b).trans (if_pos hb)
  next hb => exact State.dataByte_congr_mem ((bytes b).trans (if_neg hb))

/-- R67: a write of RAM that succeeds is a store to the data side and keeps the invariant. -/
theorem memWrite_stores {s s' : State} {a v : Word} {n : Width} (h : DataInv s) (hram : s.inRam a) (hm : s.memWrite a v n = .ok s') :
    Stores a v n s s' ∧ DataInv s' := by
  rcases State.memWrite_cases s a v n with ⟨_, e⟩ | ⟨_, _, e⟩ | ⟨r, ha, hr, ⟨he, hu, e⟩ | ⟨hc, _, e⟩ | ⟨_, ⟨_, peripheral⟩, e⟩⟩ <;>
    rw [e] at hm <;> cases hm
  · exact h.write he ha hr hu v
  · exact h.writeMemory ha hr hc v
  · exact (hram.not_peripheral hr peripheral).elim

/-! Ranges of memory. -/

/-- The words of a range from its second on. -/
theorem add_ofNat_succ (a : Word) (k : Nat) : a + 4#32 + BitVec.ofNat 32 (4 * k) = a + BitVec.ofNat 32 (4 * (k + 1)) := by
  rw [BitVec.add_assoc, Nat.mul_add, Nat.add_comm, BitVec.ofNat_add]

/-- R70: a write of a word by the host at an aligned address of RAM. -/
theorem hostWrite_ram {s : State} {a : Word} (ha : a.toNat % 4 = 0) (hram : s.inRam a) (src : AccessSource) (v : Word) :
    s.hostWrite src a v .word = some { s with mem := s.mem.setWord a v } := by
  obtain ⟨r, hr, ram⟩ := hram
  simp [State.hostWrite, alignedTo, widthBytes, ha, hr, State.backendWrite, ram, Memory.write]

/-- R70, R71: `write_range` in RAM is a burst. -/
theorem writeRange_ram {s : State} {a : Word} {words : List Word} (ha : a.toNat % 4 = 0)
    (hram : ∀ k, k < words.length → s.inRam (a + BitVec.ofNat 32 (4 * k))) :
    s.writeRange a words = some { s with mem := s.mem.writeBurst a words } := by
  induction words generalizing s a with
  | nil => rfl
  | cons w rest ih =>
    have first : s.inRam a := by simpa using hram 0 (Nat.succ_pos _)
    have aligned : (a + 4#32).toNat % 4 = 0 := by
      simp only [BitVec.toNat_add, BitVec.toNat_ofNat]
      omega
    simp only [State.writeRange, hostWrite_ram ha first]
    refine ih aligned fun k hk => ?_
    rw [add_ofNat_succ]
    exact hram (k + 1) (Nat.succ_lt_succ hk)

/-- A word of a burst that does not pass the top of the address space. -/
theorem Memory.word_writeBurst {m : Memory} (h : m.wf = true) {a : Word} {words : List Word} (ha : a.toNat % 4 = 0)
    (hl : a.toNat + 4 * words.length ≤ 2 ^ 32) {k : Nat} (hk : k < words.length) :
    (m.writeBurst a words).word (a + BitVec.ofNat 32 (4 * k)) = words[k] := by
  refine word_ext fun j hj => ?_
  have address : (a + BitVec.ofNat 32 (4 * k) + BitVec.ofNat 32 j).toNat = a.toNat + 4 * k + j := by
    simp only [BitVec.toNat_add, BitVec.toNat_ofNat]
    omega
  rw [Memory.byteOfWord_word _ _ j hj, Memory.byte_writeBurst h ha hl, address, if_pos (by omega),
    show (a.toNat + 4 * k + j - a.toNat) / 4 = k by omega, show (a.toNat + 4 * k + j) % 4 = j by omega, List.getD_eq_getElem _ _ hk]

/-! The statements. -/

/-- Settles O49: through the cache by what it yields for the word (R105), past it because no line holds the block. -/
theorem readsReturnTheDataSideValue : Obligations.ReadsReturnTheDataSideValue :=
  fun _ _ _ _ _ h hram hm => ⟨memRead_value h hram hm, memRead_kept h hm⟩

/-- Settles O50: each way a write of RAM goes, through the cache or past it, is one store to the data side. -/
theorem writesChangeTheDataSideBytes : Obligations.WritesChangeTheDataSideBytes := by
  intro s s' a v n h hram hm
  obtain ⟨stores, inv⟩ := memWrite_stores h hram hm
  exact ⟨fun b hb => (stores b).trans (if_pos hb), fun b hb => (stores b).trans (if_neg hb), inv⟩

/-- Settles O58: load-range is a burst from START rounded down to 4. -/
theorem loadRangeWritesConsecutiveWords : Obligations.LoadRangeWritesConsecutiveWords := by
  intro s start words h hl hram
  have aligned := wordBase_aligned start
  refine ⟨_, writeRange_ram aligned hram, fun k hk => Memory.word_writeBurst h aligned hl hk, fun b hb => ?_⟩
  exact (Memory.byte_writeBurst h aligned hl b).trans (if_neg (by omega))

end Sys2Proof.Machine

/-! PROOFS of the statements of 21_cache.md: the data cache is transparent to programs (R117), every step keeps the invariants of both caches (R103,
R115, R116), the flush (R120), the victim (R106), and the parts of an address (R102). -/

namespace Sys2Proof.Machine

/-! A machine without caches beside one with them. -/

/-- What a program can tell of `s`, over the memory, the caches and the latches of `u`, with both caches disabled. -/
def State.over (u s : State) : State :=
  { u with cfg := withoutCaches s.cfg, gpr := s.gpr, pc := s.pc, hi := s.hi, lo := s.lo, badVAddr := s.badVAddr, cp0Status := s.cp0Status,
           cause := s.cause, epc := s.epc, pendingTarget := s.pendingTarget, run := s.run, cycles := s.cycles, events := s.events,
           draws := s.draws, symbols := s.symbols }

theorem seenAlike_over {s u : State} (h : ∀ a, u.mem.byte a = s.dataByte a) : SeenAlike s (State.over u s) :=
  ⟨rfl, rfl, rfl, rfl, rfl, fun c => by cases c <;> rfl, rfl, rfl, rfl, rfl, rfl, rfl, h⟩

/-- A machine that a program cannot tell from `s` is what it can tell of `s`, over that machine's own memory. -/
theorem SeenAlike.eq_over {s t : State} (h : SeenAlike s t) : t = State.over t s := by
  obtain ⟨cfg, gpr, pc, hi, lo, cp0, pendingTarget, run, cycles, events, draws, symbols, _⟩ := h
  have badVAddr := cp0 .badVAddr
  have status := cp0 .status
  have cause := cp0 .cause
  have epc := cp0 .epc
  cases t
  simp only [State.cp0] at *
  simp only [State.over, *]

/-! What an instruction does to the state outside memory, it does likewise over another memory. -/

section
variable (u s : State)

theorem setDest_over (dest : Option Reg) (v : Option Word) : (State.over u s).setDest dest v = State.over u (s.setDest dest v) := by
  cases dest <;> cases v
  case some.some r w =>
    simp only [State.setDest, State.setX]
    split <;> rfl
  all_goals rfl

theorem applySpecial_over (e : Effects) : (State.over u s).applySpecial e = State.over u (s.applySpecial e) := by
  obtain ⟨_, _, hi, lo, cp0, _, drew⟩ := e
  rcases cp0 with _ | ⟨_ | _ | _ | _, v⟩ <;> cases hi <;> cases lo <;> cases drew <;> rfl

theorem updatePc_over (target : Option Word) : (State.over u s).updatePc target = State.over u (s.updatePc target) := by
  have slot : (State.over u s).cfg.delaySlot = s.cfg.delaySlot := rfl
  cases hd : s.cfg.delaySlot <;> simp only [State.updatePc, slot, hd, if_true, Bool.false_eq_true, if_false] <;> rfl

theorem takeTrap_over (pc : Word) (k : TrapKind) (a : Option Word) :
    (State.over u s).takeTrap pc k a = State.over u (s.takeTrap pc k a) := by
  cases a <;> rfl

/-- The writes and the move of PC that end a commit. -/
theorem commitWrites_over (dest : Option Reg) (v : Option Word) (e : Effects) :
    (((State.over u s).setDest dest v).applySpecial e).updatePc e.target =
      State.over u (((s.setDest dest v).applySpecial e).updatePc e.target) := by
  rw [setDest_over, applySpecial_over, updatePc_over]

theorem port_over (r : Option Reg) : (State.over u s).port r = s.port r := by cases r <;> rfl

/-- No operation block reads the memory, the caches or the latches. -/
theorem operate_over (i : Instr) (a b pc : Word) : operate i a b pc (State.over u s) = operate i a b pc s := by cases i <;> rfl

end

/-- R117: `t` is a machine without caches that a program cannot tell from `s`, and its memory is in canonical form. -/
structure Uncached (s t : State) : Prop where
  alike : SeenAlike s t
  memory : t.mem.wf = true

/-- An operation that leaves the data side, and does likewise over another memory, keeps two machines alike. -/
theorem Uncached.map {s t : State} (h : Uncached s t) {f : State → State} (likewise : f (State.over t s) = State.over t (f s))
    (data : ∀ a, (f s).dataByte a = s.dataByte a) : Uncached (f s) (f t) := by
  have same : f t = State.over t (f s) := by rw [← likewise, ← h.alike.eq_over]
  rw [same]
  exact ⟨seenAlike_over fun a => (h.alike.memory a).trans (data a).symm, h.memory⟩

theorem Uncached.commitWrites {s t : State} (h : Uncached s t) (dest : Option Reg) (v : Option Word) (e : Effects) :
    Uncached (((s.setDest dest v).applySpecial e).updatePc e.target) (((t.setDest dest v).applySpecial e).updatePc e.target) :=
  h.map (f := fun s => ((s.setDest dest v).applySpecial e).updatePc e.target) (commitWrites_over t s dest v e)
    (State.dataByte_congr (by simp) (by simp) (by simp))

theorem Uncached.takeTrap {s t : State} (h : Uncached s t) (pc : Word) (k : TrapKind) (a : Option Word) :
    Uncached (s.takeTrap pc k a) (t.takeTrap pc k a) :=
  h.map (f := State.takeTrap pc k a) (takeTrap_over t s pc k a) (State.dataByte_congr (by simp) (by simp) (by simp))

theorem Uncached.halt {s t : State} (h : Uncached s t) : Uncached s.halt t.halt := h.map (f := State.halt) rfl fun _ => rfl

theorem Uncached.emit {s t : State} (h : Uncached s t) (e : Notification) : Uncached (s.emit e) (t.emit e) :=
  h.map (f := State.emit e) rfl fun _ => rfl

/-- R62: a read of a peripheral that both make. -/
theorem Uncached.draw {s t : State} (h : Uncached s t) : Uncached { s with draws := s.draws + 1 } { t with draws := t.draws + 1 } :=
  h.map (f := fun s => { s with draws := s.draws + 1 }) rfl fun _ => rfl

/-- The data cache and memory of the one replaced together, and the memory of the other by what the data side then sees. -/
theorem Uncached.replaceData {s t : State} (h : Uncached s t) {k : Cache} {m m' : Memory} (hm : m'.wf = true)
    (bytes : ∀ b, m'.byte b = { s with dCache := k, mem := m }.dataByte b) :
    Uncached { s with dCache := k, mem := m } { t with mem := m' } := by
  obtain ⟨cfg, gpr, pc, hi, lo, cp0, pendingTarget, run, cycles, events, draws, symbols, _⟩ := h.alike
  exact ⟨⟨cfg, gpr, pc, hi, lo, cp0, pendingTarget, run, cycles, events, draws, symbols, bytes⟩, hm⟩

/-! Its accesses to memory. -/

theorem Uncached.disabled {s t : State} (h : Uncached s t) : t.cfg.dCache.enabled = false := by
  rw [h.alike.cfg]
  rfl

theorem Uncached.range {s t : State} (h : Uncached s t) (a : Word) : rangeOf t.cfg a = rangeOf s.cfg a := by
  rw [h.alike.cfg]
  rfl

/-- R61, R72: a cached range is one of RAM. -/
theorem ram_of_cached {g : Config} (hg : g.wellFormed = true) {a : Word} {r : Range} (hr : rangeOf g a = some r)
    (hu : r.uncached = false) : r.backend = .ram := by
  obtain ⟨_, _, _, _, _, _, periph⟩ := (Config.wellFormed_iff g).1 hg
  cases hb : r.backend with
  | ram => rfl
  | peripheral d =>
    rw [periph r d (rangeIn_some hr).1 hb] at hu
    cases hu

/-- Two reads trap alike, or yield one value and leave machines alike. -/
inductive ReadsAlike : Access → Access → Prop where
  | ok (v : Word) {s t : State} (h : Uncached s t) : ReadsAlike (.ok v s) (.ok v t)
  | trap (k : TrapKind) (a : Word) : ReadsAlike (.trap k a) (.trap k a)

/-- Two writes trap alike, or leave machines alike. -/
inductive WritesAlike : Stored → Stored → Prop where
  | ok {s t : State} (h : Uncached s t) : WritesAlike (.ok s) (.ok t)
  | trap (k : TrapKind) (a : Word) : WritesAlike (.trap k a) (.trap k a)

section
variable {s t : State} (h : Uncached s t) (hd : DataInv s) {a : Word} {n : Width} {r : Range} (ha : alignedTo a n = true)
  (hr : rangeOf s.cfg a = some r) (ram : r.backend = .ram)
include h hd ha hr ram

/-- R66, R117: what the cache or memory yields for a read of RAM, memory alone yields beside it. -/
theorem Uncached.readRam {v : Word} {k : Cache} {m : Memory} (hm : s.memRead a n = .ok v { s with dCache := k, mem := m }) :
    ReadsAlike (s.memRead a n) (t.memRead a n) := by
  have value : v = t.mem.read a n := by
    rw [memRead_value hd ⟨r, hr, ram⟩ hm]
    exact State.dataValue_eq_read ha fun b _ => (h.alike.memory b).symm
  have plain : t.memRead a n = .ok (t.mem.read a n) t := by
    simp [State.memRead, State.backendRead, ha, h.range, hr, h.disabled, ram]
  obtain ⟨kept, _⟩ := memRead_kept hd hm
  rw [hm, plain, ← value]
  exact .ok v (h.replaceData h.memory fun b => (h.alike.memory b).trans (kept b).symm)

/-- R67, R117: a write of RAM, through the cache or not, is one of memory alone beside it. -/
theorem Uncached.writeRam {v : Word} {k : Cache} {m : Memory} (hm : s.memWrite a v n = .ok { s with dCache := k, mem := m }) :
    WritesAlike (s.memWrite a v n) (t.memWrite a v n) := by
  have plain : t.memWrite a v n = .ok { t with mem := t.mem.write a v n } := by
    simp [State.memWrite, State.backendWrite, ha, h.range, hr, h.disabled, ram]
  obtain ⟨stores, _⟩ := memWrite_stores hd ⟨r, hr, ram⟩ hm
  rw [hm, plain]
  refine .ok (h.replaceData (Memory.wf_write h.memory a v n) fun b => ?_)
  rw [stores b, Memory.byte_write h.memory (by simpa [alignedTo] using ha) v, h.alike.memory]
  split
  next hb => exact (storedByte_eq v a b n hb).symm
  next => rfl

end

theorem Uncached.memRead_alike {s t : State} (h : Uncached s t) (hd : DataInv s) (a : Word) (n : Width) :
    ReadsAlike (s.memRead a n) (t.memRead a n) := by
  rcases State.memRead_cases s a n with ⟨ha, e⟩ | ⟨ha, hr, e⟩ | ⟨r, ha, hr, ⟨_, hu, e⟩ | ⟨_, ram, e⟩ | ⟨_, ⟨d, peripheral⟩, e⟩⟩
  · have same : t.memRead a n = .trap (.unalignedAccess .load) a := by simp [State.memRead, ha]
    rw [e, same]
    exact .trap _ _
  · have same : t.memRead a n = .trap (.busError .data) a := by simp [State.memRead, ha, h.range, hr]
    rw [e, same]
    exact .trap _ _
  · exact h.readRam hd ha hr (ram_of_cached hd.config hr hu) e
  · exact h.readRam hd ha hr ram e
  · have same : t.memRead a n = .ok (s.backendRead .cpu s.mem r a n).1 { t with draws := t.draws + 1 } := by
      simp [State.memRead, State.backendRead, State.periphRead, ha, h.range, hr, h.disabled, peripheral, h.alike.draws]
    rw [e, same]
    exact .ok _ h.draw

theorem Uncached.memWrite_alike {s t : State} (h : Uncached s t) (hd : DataInv s) (a v : Word) (n : Width) :
    WritesAlike (s.memWrite a v n) (t.memWrite a v n) := by
  rcases State.memWrite_cases s a v n with ⟨ha, e⟩ | ⟨ha, hr, e⟩ | ⟨r, ha, hr, ⟨_, hu, e⟩ | ⟨_, ram, e⟩ | ⟨_, ⟨d, peripheral⟩, e⟩⟩
  · have same : t.memWrite a v n = .trap (.unalignedAccess .store) a := by simp [State.memWrite, ha]
    rw [e, same]
    exact .trap _ _
  · have same : t.memWrite a v n = .trap (.busError .data) a := by simp [State.memWrite, ha, h.range, hr]
    rw [e, same]
    exact .trap _ _
  · exact h.writeRam hd ha hr (ram_of_cached hd.config hr hu) e
  · exact h.writeRam hd ha hr ram e
  · have same : t.memWrite a v n = .ok t := by
      simp [State.memWrite, State.backendWrite, ha, h.range, hr, h.disabled, peripheral]
    rw [e, same]
    exact .ok h

/-- Two outcomes are refused alike, or leave machines alike. -/
inductive OutcomesAlike : StepResult → StepResult → Prop where
  | next {s t : State} (h : Uncached s t) : OutcomesAlike (.next s) (.next t)
  | refused (r : Refusal) : OutcomesAlike (.refused r) (.refused r)

theorem Uncached.commit_alike {s t : State} (h : Uncached s t) (hd : DataInv s) (dest : Option Reg) (o : OpOut) :
    OutcomesAlike (commit dest o s) (commit dest o t) := by
  have trapped (k a) : OutcomesAlike (.next (s.takeTrap s.pc k a)) (.next (t.takeTrap t.pc k a)) := by
    rw [h.alike.pc]
    exact .next (h.takeTrap s.pc k a)
  cases o with
  | trap k a => exact trapped k a
  | halt => exact .next h.halt
  | refuse r => exact .refused r
  | done e =>
    simp only [commit]
    split
    · exact .next (h.commitWrites dest e.result e)
    next a n signed _ =>
      have read := h.memRead_alike hd a n
      generalize s.memRead a n = x, t.memRead a n = y at read
      cases read with
      | ok v read => exact .next (read.commitWrites dest _ e)
      | trap k bad => exact trapped k (some bad)
    next a n v _ =>
      have write := h.memWrite_alike hd a v n
      generalize s.memWrite a v n = x, t.memWrite a v n = y at write
      cases write with
      | ok written => exact .next ((written.emit (.memory a n v)).commitWrites dest e.result e)
      | trap k bad => exact trapped k (some bad)

theorem Uncached.operate_eq {s t : State} (h : Uncached s t) (i : Instr) :
    operate i (t.port (portA i)) (t.port (portB i)) t.pc t = operate i (s.port (portA i)) (s.port (portB i)) s.pc s := by
  rw [h.alike.eq_over, port_over, port_over, operate_over]
  rfl

/-- R117: an instruction reads and writes, beside the data side, nothing in which the two machines differ. -/
theorem Uncached.exec_alike {s t : State} (h : Uncached s t) (hd : DataInv s) (i : Instr) : OutcomesAlike (exec i s) (exec i t) := by
  have committed := h.commit_alike hd (destOf i) (operate i (s.port (portA i)) (s.port (portB i)) s.pc s)
  rw [exec_eq, exec_eq, h.operate_eq]
  split
  · have slot : (t.cfg.delaySlot && t.pendingTarget.isSome) = (s.cfg.delaySlot && s.pendingTarget.isSome) := by
      rw [h.alike.cfg, h.alike.pendingTarget]
      rfl
    unfold commitControl
    rw [slot]
    split
    · exact .refused _
    · exact committed
  · exact committed

/-- Settles O51: the two machines are alike under every access, and so under the commit of every block. -/
theorem cachesAreTransparentToPrograms : Obligations.CachesAreTransparentToPrograms := by
  intro s t i hd hm alike
  have outcomes := (Uncached.mk alike hm).exec_alike hd i
  refine ⟨fun s' hs => ?_, fun r hr => ?_, exec_ne_fault i s⟩
  · rw [hs] at outcomes
    generalize exec i t = o at outcomes
    cases outcomes with
    | next h => exact ⟨_, rfl, h.alike, h.memory⟩
  · rw [hr] at outcomes
    generalize exec i t = o at outcomes
    cases outcomes with
    | refused => rfl

/-! The invariants of both caches, kept. -/

theorem StatsGrown.trans {a b c : CacheStats} (h : StatsGrown a b) (k : StatsGrown b c) : StatsGrown a c := by
  obtain ⟨hits, misses, reads, writes, stalls⟩ := h
  obtain ⟨hits', misses', reads', writes', stalls'⟩ := k
  exact ⟨hits.trans hits', misses.trans misses', reads.trans reads', writes.trans writes', stalls.trans stalls'⟩

/-- R103, R115: an operation that keeps the invariants of the data side and of both caches where they hold, and lets no counter fall. -/
def CachesKept (s t : State) : Prop :=
  DataInv s → DataInv t ∧ StatsGrown s.iCache.stats t.iCache.stats ∧ StatsGrown s.dCache.stats t.dCache.stats

theorem CachesKept.trans {s t u : State} (h : CachesKept s t) (k : CachesKept t u) : CachesKept s u := by
  intro hs
  obtain ⟨ht, instruction, data⟩ := h hs
  obtain ⟨hu, instruction', data'⟩ := k ht
  exact ⟨hu, instruction.trans instruction', data.trans data'⟩

/-- An operation that leaves the configuration, memory and both caches. -/
theorem CachesKept.of_fields {s t : State} (cfg : t.cfg = s.cfg) (mem : t.mem = s.mem) (iCache : t.iCache = s.iCache)
    (dCache : t.dCache = s.dCache) : CachesKept s t := by
  rintro ⟨config, memory, ⟨instruction, data⟩⟩
  rw [iCache, dCache]
  refine ⟨⟨cfg ▸ config, mem ▸ memory, ?_, ?_⟩, .refl _, .refl _⟩
  · rw [cfg, iCache]
    exact instruction
  · rw [cfg, dCache, mem]
    exact data

theorem memRead_cachesKept {s t : State} {a v : Word} {n : Width} (h : s.memRead a n = .ok v t) : CachesKept s t := by
  intro hs
  refine ⟨(memRead_kept hs h).2, ?_⟩
  rcases State.memRead_cases s a n with ⟨_, e⟩ | ⟨_, _, e⟩ | ⟨r, _, hr, ⟨he, hu, e⟩ | ⟨_, _, e⟩ | ⟨_, _, e⟩⟩ <;> rw [e] at h <;> cases h
  · have geometry := (geometry_of_wellFormed hs.config).2 he
    obtain ⟨set, tag, _⟩ := same_word (c := s.cfg.dCache) (wordBase_div a)
    have placed := blockPlaced_of_range hs.config (.inr rfl) he geometry.2.1 hr hu
    rw [← set, ← tag] at placed
    exact ⟨.refl _, (Cache.readWord_inv geometry (hs.caches.data he).1 .data s.mem placed).2⟩
  · exact ⟨.refl _, .refl _⟩
  · exact ⟨.refl _, .refl _⟩

theorem memWrite_cachesKept {s t : State} {a v : Word} {n : Width} (h : s.memWrite a v n = .ok t) : CachesKept s t := by
  intro hs
  rcases State.memWrite_cases s a v n with ⟨_, e⟩ | ⟨_, _, e⟩ | ⟨r, ha, hr, ⟨he, hu, e⟩ | ⟨hc, _, e⟩ | ⟨_, _, e⟩⟩ <;> rw [e] at h <;> cases h
  · have geometry := (geometry_of_wellFormed hs.config).2 he
    obtain ⟨inv, clean⟩ := hs.caches.data he
    have placed := blockPlaced_of_range hs.config (.inr rfl) he geometry.2.1 hr hu
    obtain ⟨_, grown, _⟩ := Cache.write_spec hs.config geometry .data inv hs.memory clean ha placed v
    exact ⟨(hs.write he ha hr hu v).2, .refl _, grown⟩
  · exact ⟨(hs.writeMemory ha hr hc v).2, .refl _, .refl _⟩
  · exact ⟨hs, .refl _, .refl _⟩

/-- R101: a fetch, from whatever bytes, moves the instruction cache alone, and makes no line of it dirty. -/
theorem fetchWord_cachesKept {s t : State} {m : Memory} {a w : Word} (h : s.fetchWord m a = .ok w t) : CachesKept s t := by
  intro hs
  rcases State.fetchWord_cases s m a with ⟨_, e⟩ | ⟨r, hr, ⟨he, hu, e⟩ | ⟨_, _, e⟩ | ⟨_, _, e⟩⟩ <;> rw [e] at h <;> cases h
  · have geometry := (geometry_of_wellFormed hs.config).1 he
    obtain ⟨inv, notDirty⟩ := hs.caches.instruction he
    have placed := blockPlaced_of_range hs.config (.inl rfl) he geometry.2.1 hr hu
    obtain ⟨inv', grown⟩ := Cache.readWord_inv geometry inv .instruction m placed
    obtain ⟨_, notDirty'⟩ := Cache.readWord_noDirty geometry inv.lines.shaped notDirty .instruction m a
    exact ⟨⟨hs.config, hs.memory, fun _ => ⟨inv', notDirty'⟩, hs.caches.data⟩, grown, .refl _⟩
  · exact ⟨hs, .refl _, .refl _⟩
  · exact CachesKept.of_fields rfl rfl rfl rfl hs

/-! The single-cycle core. -/

theorem takeTrap_cachesKept (pc : Word) (k : TrapKind) (a : Option Word) (s : State) : CachesKept s (s.takeTrap pc k a) :=
  .of_fields (by simp) (by simp) (by simp) (by simp)

theorem emit_cachesKept (e : Notification) (s : State) : CachesKept s (s.emit e) := .of_fields rfl rfl rfl rfl

/-- The register writes and the move of PC that end a commit. -/
theorem commitWrites_cachesKept (dest : Option Reg) (v : Option Word) (e : Effects) (s : State) :
    CachesKept s (((s.setDest dest v).applySpecial e).updatePc e.target) :=
  .of_fields (by simp) (by simp) (by simp) (by simp)

theorem commit_cachesKept {dest : Option Reg} {o : OpOut} {s t : State} (h : commit dest o s = .next t) : CachesKept s t := by
  rcases commit_cases dest o s with ⟨_, _, _, e⟩ | ⟨_, e⟩ | ⟨_, _, e⟩ | ⟨_, _, _, e⟩ |
      ⟨_, _, _, _, _, _, ⟨_, _, _, e⟩ | ⟨_, _, hm, e⟩⟩ | ⟨_, _, _, _, _, _, ⟨_, _, _, e⟩ | ⟨_, hm, e⟩⟩ <;>
    rw [e] at h <;> cases h
  · exact takeTrap_cachesKept _ _ _ _
  · exact .of_fields rfl rfl rfl rfl
  · exact commitWrites_cachesKept _ _ _ _
  · exact takeTrap_cachesKept _ _ _ _
  · exact (memRead_cachesKept hm).trans (commitWrites_cachesKept _ _ _ _)
  · exact takeTrap_cachesKept _ _ _ _
  · exact (memWrite_cachesKept hm).trans ((emit_cachesKept _ _).trans (commitWrites_cachesKept _ _ _ _))

theorem exec_cachesKept {i : Instr} {s t : State} (h : exec i s = .next t) : CachesKept s t := by
  rcases exec_cases i s with ⟨_, _, _, e⟩ | e <;> rw [e] at h
  · cases h
  · exact commit_cachesKept h

theorem beginCycle_cachesKept (s : State) : CachesKept s s.beginCycle := .of_fields rfl rfl rfl rfl

theorem stepSingle_cachesKept {s t : State} (h : stepSingle s = .next t) : CachesKept s t := by
  refine (beginCycle_cachesKept s).trans ?_
  rcases stepSingle_cases s with ⟨_, e⟩ | ⟨_, _, e⟩ | ⟨_, _, ⟨_, _, _, e⟩ | ⟨w, s', hf, _, e⟩ | ⟨w, s', i, hf, _, e⟩⟩ <;> rw [e] at h
  · cases h; exact .of_fields rfl rfl rfl rfl
  · cases h
  · cases h; exact takeTrap_cachesKept _ _ _ _
  · cases h; exact (fetchWord_cachesKept hf).trans ((emit_cachesKept _ _).trans (takeTrap_cachesKept _ _ _ _))
  · exact (fetchWord_cachesKept hf).trans ((emit_cachesKept _ _).trans ((emit_cachesKept _ _).trans (exec_cachesKept h)))

/-! The pipelined core. -/

/-- R332: MEM makes the one data access of a cycle. -/
theorem memStage_cachesKept {s t : State} {mw : Latch MemWbSlot} (h : memStage s = .ok mw t) : CachesKept s t := by
  rcases memStage_cases s with ⟨_, e⟩ | ⟨q, _, ⟨_, e⟩ | ⟨_, _, _, _, ⟨_, _, _, e⟩ | ⟨v, s', hr, e⟩⟩ |
      ⟨_, _, _, _, ⟨_, _, _, e⟩ | ⟨s', hw, e⟩⟩⟩ <;> rw [e] at h <;> cases h
  · exact .of_fields rfl rfl rfl rfl
  · exact .of_fields rfl rfl rfl rfl
  · exact memRead_cachesKept hr
  · exact (memWrite_cachesKept hw).trans (.of_fields rfl rfl rfl rfl)

theorem exStage_cachesKept {s t : State} {em : Latch ExMemSlot} {rd : Option Word} (h : exStage s = .ok em rd t) : CachesKept s t := by
  rcases exStage_ok h with ⟨_, _, _, rfl⟩ | ⟨_, _, _, _, _, _, _, _, _, _, _, _, rfl⟩
  · exact .of_fields rfl rfl rfl rfl
  · exact .of_fields (by simp) (by simp) (by simp) (by simp)

/-- R337: IF makes the one fetch of a cycle. -/
theorem ifStage_cachesKept (m : Memory) (fetching : Bool) (s : State) : CachesKept s (ifStage m fetching s).2 := by
  unfold ifStage
  split
  · split
    next hf => exact (fetchWord_cachesKept hf).trans (.of_fields rfl rfl rfl rfl)
    next => exact .of_fields rfl rfl rfl rfl
  · exact .of_fields rfl rfl rfl rfl

theorem stepPipelined_cachesKept {s t : State} (h : stepPipelined s = .next t) : CachesKept s t := by
  have written : CachesKept s s.beginCycle.writeBack := .of_fields (by simp) (by simp) (by simp) (by simp)
  refine written.trans ?_
  rcases stepPipelined_cases h with ⟨_, _, _, _, rfl⟩ | ⟨mw, m, hm, ⟨_, _, rfl⟩ | ⟨_, _, _, _, rfl⟩ | ⟨_, _, u, fetching, hx, _, _, rfl⟩⟩
  · exact .of_fields (by simp) (by simp) (by simp) (by simp)
  · exact (memStage_cachesKept hm).trans (.of_fields (by simp) (by simp) (by simp) (by simp))
  · exact (memStage_cachesKept hm).trans (.of_fields (by simp) (by simp) (by simp) (by simp))
  · have notices : CachesKept m { m with events := m.executeNotices } := .of_fields rfl rfl rfl rfl
    have fetched := (exStage_cachesKept hx).trans (ifStage_cachesKept s.mem fetching u)
    exact (memStage_cachesKept hm).trans (notices.trans (fetched.trans (.of_fields rfl rfl rfl rfl)))

/-- Settles O52: a step reaches the caches by the fetch and the data access of its cycle alone. -/
theorem stepKeepsCacheInvariants : Obligations.StepKeepsCacheInvariants := by
  intro s t hs h
  rcases step_cases h with ⟨_, rfl⟩ | ⟨_, _, _, h⟩ | ⟨_, _, _, h⟩
  · exact ⟨hs, .refl _, .refl _⟩
  · exact stepSingle_cachesKept h hs
  · exact stepPipelined_cachesKept h hs

/-! The flush. -/

/-- R104: the bytes after a line is written back: its block holds its data, every other byte is as before. -/
theorem byte_writeBackLine {g : Config} {c : CacheCfg} (hg : g.wellFormed = true) (hpos : 1 ≤ c.words) {m : Memory} (hm : m.wf = true) {s : Nat}
    (hs : s < c.sets) {l : Line} (hp : l.placed g c s) (b : Word) :
    (writeBackLine c m s l).byte b =
      if setIndex c b = s ∧ tagIndex c b = l.tag then byteOfWord (l.data.getD (blockOffset c b) 0#32) (b.toNat % 4) else m.byte b := by
  have bound := Line.placed_bounds hg hp
  have length := hp.1
  have base : (lineBase c l.tag s).toNat = (l.tag * c.sets + s) * c.words * 4 := lineBase_toNat (by omega)
  rw [writeBackLine, Memory.byte_writeBurst hm (by omega) (by omega), base, length]
  split
  next inside =>
    obtain ⟨tag, set⟩ := tag_set_of_mem hs inside.1 inside.2
    have parts := address_parts c b
    rw [← block_of_tag_set, set, tag] at parts
    rw [if_pos ⟨set, tag⟩]
    congr 2
    omega
  next outside =>
    rw [if_neg]
    rintro ⟨rfl, tag⟩
    have block := base_le c b hpos
    rw [tag] at block
    exact outside block

/-- A line of set `s` is placed, and each byte of its block is the one that `f` names. -/
structure Line.Shows (g : Config) (c : CacheCfg) (f : Word → Byte) (s : Nat) (l : Line) : Prop where
  placed : l.placed g c s
  bytes : ∀ b, setIndex c b = s → tagIndex c b = l.tag → byteOfWord (l.data.getD (blockOffset c b) 0#32) (b.toNat % 4) = f b

/-- A line of set `s` that holds `b` must be written back. -/
structure Line.Owes (c : CacheCfg) (s : Nat) (b : Word) (l : Line) : Prop where
  owed : l.owed = true
  set : setIndex c b = s
  tag : tagIndex c b = l.tag

theorem wf_flushWays {m : Memory} (h : m.wf = true) (c : CacheCfg) (s : Nat) (ways : List Line) : (flushWays c s m ways).wf = true := by
  induction ways generalizing m with
  | nil => exact h
  | cons l rest ih =>
    refine ih ?_
    split
    · exact Memory.wf_writeBurst h _ _
    · exact h

theorem wf_flushSets {m : Memory} (h : m.wf = true) (c : CacheCfg) (s : Nat) (sets : List (List Line)) : (flushSets c s m sets).wf = true := by
  induction sets generalizing m s with
  | nil => exact h
  | cons ways rest ih => exact ih (wf_flushWays h c s ways) (s + 1)

section
variable {g : Config} {c : CacheCfg} {f : Word → Byte} (hg : g.wellFormed = true) (hpos : 1 ≤ c.words)
include hg hpos

/-- R120: where the lines of a set show `f`, a byte that memory has as `f` names it, or that one of them owes, is as `f` names it once the set is
flushed. -/
theorem byte_flushWays {s : Nat} (hs : s < c.sets) {m : Memory} (hm : m.wf = true) {ways : List Line}
    (shows : ∀ l ∈ ways, l.owed = true → l.Shows g c f s) {b : Word} (h : m.byte b = f b ∨ ∃ l ∈ ways, l.Owes c s b) :
    (flushWays c s m ways).byte b = f b := by
  induction ways generalizing m with
  | nil => simpa [flushWays] using h
  | cons l rest ih =>
    have showsRest : ∀ l ∈ rest, l.owed = true → l.Shows g c f s := fun l hl => shows l (List.mem_cons_of_mem _ hl)
    simp only [flushWays]
    cases owed : l.owed with
    | false =>
      refine ih hm showsRest (h.imp_right ?_)
      rintro ⟨l', mem, owes⟩
      rcases List.mem_cons.1 mem with rfl | mem
      · rw [owes.owed] at owed
        cases owed
      · exact ⟨l', mem, owes⟩
    | true =>
      have line := shows l List.mem_cons_self owed
      have written := byte_writeBackLine hg hpos hm hs line.placed b
      refine ih (Memory.wf_writeBurst hm _ _) showsRest ?_
      split at written
      next holds => exact .inl (written.trans (line.bytes b holds.1 holds.2))
      next other =>
        rw [if_pos rfl, written]
        refine h.imp_right ?_
        rintro ⟨l', mem, owes⟩
        rcases List.mem_cons.1 mem with rfl | mem
        · exact (other ⟨owes.set, owes.tag⟩).elim
        · exact ⟨l', mem, owes⟩

/-- R120: likewise for the sets from `s` up. -/
theorem byte_flushSets {s : Nat} {m : Memory} (hm : m.wf = true) {sets : List (List Line)}
    (shows : ∀ p ∈ sets.zipIdx s, p.2 < c.sets ∧ ∀ l ∈ p.1, l.owed = true → l.Shows g c f p.2) {b : Word}
    (h : m.byte b = f b ∨ ∃ p ∈ sets.zipIdx s, ∃ l ∈ p.1, l.Owes c p.2 b) : (flushSets c s m sets).byte b = f b := by
  induction sets generalizing m s with
  | nil => simpa [flushSets] using h
  | cons ways rest ih =>
    rw [List.zipIdx_cons] at shows h
    obtain ⟨hs, showsWays⟩ := shows (ways, s) List.mem_cons_self
    have flushed := byte_flushWays hg hpos hs hm showsWays (b := b)
    refine ih (wf_flushWays hm c s ways) (fun p hp => shows p (List.mem_cons_of_mem _ hp)) ?_
    rcases h with same | ⟨p, mem, owing⟩
    · exact .inl (flushed (.inl same))
    · rcases List.mem_cons.1 mem with rfl | mem
      · exact .inl (flushed (.inr owing))
      · exact .inr ⟨p, mem, owing⟩

end

theorem Cache.line_eq_getElem {k : Cache} {s w : Nat} (h : w < (k.ways s).length) : k.line s w = (k.ways s)[w] :=
  List.getD_eq_getElem _ _ h

/-- What the flush walks over, a way of a numbered set, is a line of the cache. -/
theorem Cache.exists_line {k : Cache} {ways : List Line} {s : Nat} (h : (ways, s) ∈ k.sets.zipIdx) {l : Line} (hl : l ∈ ways) :
    ∃ w, k.line s w = l := by
  have set : k.ways s = ways := by
    rw [List.mem_zipIdx_iff_getElem?] at h
    simp [Cache.ways, List.getD_eq_getElem?_getD, h]
  obtain ⟨w, hw, rfl⟩ := List.getElem_of_mem hl
  subst set
  exact ⟨w, Cache.line_eq_getElem hw⟩

/-- The flush walks over every valid line. -/
theorem Cache.line_mem {k : Cache} {s w : Nat} (h : (k.line s w).valid = true) :
    (k.ways s, s) ∈ k.sets.zipIdx ∧ k.line s w ∈ k.ways s := by
  have way : w < (k.ways s).length := by
    by_contra outside
    rw [Cache.line, List.getD_eq_default _ _ (by omega)] at h
    cases h
  have set : s < k.sets.length := by
    by_contra outside
    rw [Cache.ways, List.getD_eq_default _ _ (by omega)] at way
    cases way
  constructor
  · rw [List.mem_zipIdx_iff_getElem?, Cache.ways, List.getD_eq_getElem _ _ set, List.getElem?_eq_getElem set]
  · rw [Cache.line_eq_getElem way]
    exact List.getElem_mem way

/-- A valid line shows what the cache over memory shows. -/
theorem LinesInv.shows {g : Config} {c : CacheCfg} {k : Cache} (h : LinesInv g c k) (m : Memory) {s w : Nat} (hv : (k.line s w).valid = true) :
    (k.line s w).Shows g c (k.seen c m) s := by
  refine ⟨h.placed s w hv, ?_⟩
  rintro b rfl tag
  exact (Cache.seen_of_line h m hv tag.symm).symm

/-- A byte that no line owes is in memory as the cache over it shows it. -/
theorem CleanAgrees.byte_eq_seen {g : Config} {c : CacheCfg} {k : Cache} {m : Memory} (hg : g.wellFormed = true) (hpos : 1 ≤ c.words)
    (h : LinesInv g c k) (hc : CleanAgrees c k m) (b : Word) :
    m.byte b = k.seen c m b ∨ ∃ w, (k.line (setIndex c b) w).Owes c (setIndex c b) b := by
  rcases Cache.line_or_none c k b with ⟨w, valid, tag⟩ | none
  · cases dirty : (k.line (setIndex c b) w).dirty with
    | true => exact .inr ⟨w, by simp [Line.owed, valid, dirty], rfl, tag.symm⟩
    | false =>
      rw [Cache.seen_of_line h m valid tag, hc _ _ valid dirty]
      exact .inl (byte_of_readBurst hpos (Line.placed_bounds hg (h.placed _ _ valid)) rfl tag.symm).symm
  · exact .inl (Cache.seen_of_no_line m none).symm

/-- R120: memory after a flush is what the cache over memory showed. -/
theorem Cache.byte_flush {g : Config} {c : CacheCfg} {k : Cache} {m : Memory} (hg : g.wellFormed = true) (hpos : 1 ≤ c.words)
    (h : LinesInv g c k) (hm : m.wf = true) (hc : CleanAgrees c k m) (b : Word) : (k.flush c m).2.byte b = k.seen c m b := by
  refine byte_flushSets hg hpos hm ?_ ((hc.byte_eq_seen hg hpos h b).imp_right ?_)
  · rintro ⟨ways, s⟩ set
    have bound : s < k.sets.length := (List.getElem?_eq_some_iff.1 (List.mem_zipIdx_iff_getElem?.1 set)).1
    refine ⟨h.shaped.1 ▸ bound, fun l mem owed => ?_⟩
    obtain ⟨w, rfl⟩ := Cache.exists_line set mem
    simp only [Line.owed, Bool.and_eq_true] at owed
    exact h.shows m owed.1
  · rintro ⟨w, owes⟩
    have valid := owes.owed
    simp only [Line.owed, Bool.and_eq_true] at valid
    obtain ⟨set, line⟩ := Cache.line_mem valid.1
    exact ⟨_, set, _, line, owes⟩

/-- R120: a flush drops every line. -/
theorem Cache.line_flush (c : CacheCfg) (k : Cache) (m : Memory) (s w : Nat) : (k.flush c m).1.line s w = (k.line s w).drop := by
  have empty : Line.invalid.drop = Line.invalid := rfl
  simp only [Cache.line, Cache.ways, Cache.flush, List.getD_eq_getElem?_getD, List.getElem?_map]
  cases k.sets[s]? with
  | none => simp [empty]
  | some ways => cases hw : ways[w]? <;> simp [hw, empty]

theorem CacheInv.flush {g : Config} {c : CacheCfg} {k : Cache} (h : CacheInv g c k) (m : Memory) :
    CacheInv g c (k.flush c m).1 ∧ CleanAgrees c (k.flush c m).1 (k.flush c m).2 := by
  have line := Cache.line_flush c k m
  have invalid (s w) : ((k.flush c m).1.line s w).valid ≠ true := by simp [line, Line.drop]
  have clean (s w) : ((k.flush c m).1.line s w).dirty = false := by simp [line, Line.drop]
  constructor
  · constructor
    case sets_length => simpa [Cache.flush] using h.sets_length
    case ways_length => simpa [Cache.flush] using h.ways_length
    case dirtyValid => simp [clean]
    case throughClean => exact fun _ => clean
    case accesses => exact h.accesses
    case fills => exact h.fills
    case writes =>
      have writes := h.writes
      simp only [Cache.flush, CacheStats.countWriteBacks]
      omega
    case placed | tickBound => exact fun s w valid => (invalid s w valid).elim
    case oneTag | oneTick => exact fun s i _ valid => (invalid s i valid).elim
  · exact fun s w valid => (invalid s w valid).elim

/-- Settles O53: each dirty line puts its bytes in memory, the others are there already, and no line is left to hide them. -/
theorem flushMakesMemoryEqualToTheView : Obligations.FlushMakesMemoryEqualToTheView := by
  intro s hs he
  obtain ⟨inv, clean⟩ := hs.caches.data he
  have words := ((geometry_of_wellFormed hs.config).2 he).2.1
  have flushed : s.flushData = { s with dCache := (s.dCache.flush s.cfg.dCache s.mem).1, mem := (s.dCache.flush s.cfg.dCache s.mem).2 } := by
    simp [State.flushData, he]
  have line := Cache.line_flush s.cfg.dCache s.dCache s.mem
  have bytes (b) : (s.dCache.flush s.cfg.dCache s.mem).2.byte b = s.dataByte b := by
    rw [State.dataByte_on hs.config he inv.lines, Cache.byte_flush hs.config words inv.lines hs.memory clean]
  obtain ⟨inv', clean'⟩ := inv.flush s.mem
  rw [flushed]
  refine ⟨fun i w => by simp [line, Line.drop], bytes, fun b => ?_,
    hs.replaceData (wf_flushSets hs.memory _ _ _) fun _ => ⟨inv', clean'⟩⟩
  rw [State.dataByte_replaceData hs.config he inv', ← bytes b]
  exact Cache.seen_of_no_line _ fun w valid => by simp [line, Line.drop] at valid

/-! The victim. -/

/-- R106: the first of several lines is chosen where its key is at most that of the choice among the others. -/
theorem minWay_cons (key : Line → Nat) (l : Line) {rest : List Line} (h : rest ≠ []) :
    minWay key (l :: rest) = if key l ≤ key (rest.getD (minWay key rest) Line.invalid) then 0 else minWay key rest + 1 := by
  have inside := minWay_lt key rest h
  rw [List.getD_eq_getElem _ _ inside]
  cases rest with
  | nil => exact absurd rfl h
  | cons l' rest' => rw [minWay, List.getD_eq_getElem _ _ inside]

/-- R106: the choice has a smallest key, and is the lowest that has it. -/
theorem minWay_least (key : Line → Nat) (ways : List Line) {j : Nat} (hj : j < ways.length) :
    key (ways.getD (minWay key ways) Line.invalid) ≤ key (ways.getD j Line.invalid) ∧
    (j < minWay key ways → key (ways.getD (minWay key ways) Line.invalid) < key (ways.getD j Line.invalid)) := by
  induction ways generalizing j with
  | nil => cases hj
  | cons l rest ih =>
    by_cases alone : rest = []
    · subst alone
      obtain rfl : j = 0 := by simpa using hj
      simp [minWay]
    · rw [minWay_cons key l alone]
      split
      next first =>
        refine ⟨?_, fun below => absurd below (Nat.not_lt_zero j)⟩
        cases j with
        | zero => exact Nat.le_refl _
        | succ j => exact first.trans (ih (Nat.lt_of_succ_lt_succ hj)).1
      next notFirst =>
        cases j with
        | zero =>
          simp only [List.getD_cons_succ, List.getD_cons_zero]
          omega
        | succ j =>
          obtain ⟨least, lowest⟩ := ih (Nat.lt_of_succ_lt_succ hj)
          exact ⟨least, fun below => lowest (Nat.lt_of_succ_lt_succ below)⟩

/-- R106: the two ways the victim is chosen: the lowest invalid way, or, where every way is valid, by the policy. -/
theorem Cache.victim_cases (c : CacheCfg) (side : CacheSide) (k : Cache) (s : Nat) :
    ((k.line s (k.victim c side s)).valid = false ∧ ∀ j, j < k.victim c side s → (k.line s j).valid = true) ∨
    ((∀ j, j < (k.ways s).length → (k.line s j).valid = true) ∧
      (c.replacement = .lru → k.victim c side s = minWay (·.lastTick) (k.ways s)) ∧
      (c.replacement = .lfu → k.victim c side s = minWay (·.count) (k.ways s))) := by
  cases found : (k.ways s).findIdx? (fun l => !l.valid) with
  | some w =>
    have victim : k.victim c side s = w := by simp only [Cache.victim, found]
    obtain ⟨inside, invalid, lower⟩ := List.findIdx?_eq_some_iff_getElem.1 found
    rw [victim]
    refine .inl ⟨?_, fun j hj => ?_⟩
    · rw [Cache.line_eq_getElem inside]
      simpa using invalid
    · rw [Cache.line_eq_getElem (hj.trans inside)]
      simpa using lower j hj
  | none =>
    have valid (j) (hj : j < (k.ways s).length) : (k.line s j).valid = true := by
      rw [Cache.line_eq_getElem hj]
      simpa using List.findIdx?_eq_none_iff.1 found _ (List.getElem_mem hj)
    exact .inr ⟨valid, fun policy => by simp only [Cache.victim, found, policy], fun policy => by simp only [Cache.victim, found, policy]⟩

/-- Settles O54: an invalid way where there is one, else the way of smallest key, the lowest on a tie. -/
theorem victimIsChosenByPolicy : Obligations.VictimIsChosenByPolicy := by
  intro c side k s length positive
  refine ⟨Cache.victim_lt side length positive, ?_⟩
  rcases Cache.victim_cases c side k s with ⟨invalid, lower⟩ | ⟨valid, lru, lfu⟩
  · refine ⟨fun _ => ⟨invalid, lower⟩, fun valid => ?_⟩
    rw [valid _ (Cache.victim_lt side length positive)] at invalid
    cases invalid
  · rw [length] at valid
    refine ⟨?_, fun _ => ⟨fun policy j hj => ?_, fun policy j hj => ?_⟩⟩
    · rintro ⟨j, hj, invalid⟩
      rw [valid j hj] at invalid
      cases invalid
    · rw [lru policy]
      exact minWay_least (·.lastTick) (k.ways s) (length ▸ hj)
    · rw [lfu policy]
      exact minWay_least (·.count) (k.ways s) (length ▸ hj)

/-! The parts of an address. -/

/-- R102: the block of the tag and the set of an address starts at a multiple of the block size. -/
theorem lineBase_tagIndex {c : CacheCfg} (a : Word) (h : 1 ≤ c.words) :
    (lineBase c (tagIndex c a) (setIndex c a)).toNat = a.toNat / (4 * c.words) * c.words * 4 := by
  have below := a.isLt
  obtain ⟨start, _⟩ := base_le c a h
  rw [lineBase_toNat (by omega), block_of_tag_set]

/-- Settles O55: the block's number is the quotient of the address by the block size, and the offset and the byte are its remainder. -/
theorem tagAndSetNameTheBlock : Obligations.TagAndSetNameTheBlock := by
  intro c a sets words
  have start := lineBase_tagIndex a words
  have parts := address_parts c a
  have quotient : a.toNat / (4 * c.words) * c.words * 4 = 4 * c.words * (a.toNat / (4 * c.words)) := by ring
  have division := Nat.div_add_mod a.toNat (4 * c.words)
  exact ⟨by omega, by omega, setIndex_lt c a sets, blockOffset_lt c a words⟩

/-- Settles O56: the scenario is closed, so the model runs it. -/
theorem lruScenarioOfTheSource : Obligations.LruScenarioOfTheSource := by
  unfold Obligations.LruScenarioOfTheSource
  decide

end Sys2Proof.Machine

/-! PROOFS of the statements of 30_encoding.md: the rows of the opcode table exclude each other (R149), so the word of a row decodes by that row;
and reading the fields of a word and putting them back are inverse to each other on each row (R152, R153). -/

namespace Sys2Proof

/-! A field of a word, read and put at its position. -/

/-- A field read from a word and put back at its position holds the word's bits there. -/
theorem fieldAt_extractLsb' (w : Word) (pos n : Nat) : fieldAt (w.extractLsb' pos n) pos = w &&& fieldAt (BitVec.allOnes n) pos := by
  apply BitVec.eq_of_getLsbD_eq
  intro k hk
  by_cases below : k < pos
  · simp [fieldAt, below]
  · simp [fieldAt, below, hk, Nat.add_sub_of_le (Nat.le_of_not_lt below), Bool.and_comm]

/-- A field at its position is read back there. -/
theorem extractLsb'_fieldAt {n : Nat} (v : BitVec n) (pos : Nat) (inside : pos + n ≤ 32) : (fieldAt v pos).extractLsb' pos n = v := by
  apply BitVec.eq_of_getLsbD_eq
  intro k hk
  simp [fieldAt, hk, show pos + k < 32 by omega]

/-- A slice of a word reads 0 from a field that lies outside the slice. -/
theorem extractLsb'_fieldAt_of_apart {n : Nat} (v : BitVec n) (pos lo len : Nat) (apart : lo + len ≤ pos ∨ pos + n ≤ lo) :
    (fieldAt v pos).extractLsb' lo len = 0#len := by
  apply BitVec.eq_of_getLsbD_eq
  intro k hk
  by_cases below : lo + k < pos
  · simp [fieldAt, below]
  · simp [fieldAt, BitVec.getLsbD_of_ge v (lo + k - pos) (by omega)]

/-! The rows of the table. -/

/-- The bits that a row fixes are bits of its mask. -/
theorem pattern_and_mask : ∀ r ∈ opcodeTable, r.pattern &&& r.mask = r.pattern := by decide

/-- Two rows of the table fix some common bit differently. -/
theorem opcodeTable_pairwise_conflict : opcodeTable.Pairwise fun r q => r.pattern &&& q.mask ≠ q.pattern &&& r.mask := by decide

/-- What a row builds from a word encodes as the bits the row fixes and the word's bits outside the mask: the fields of a row are exactly the bits
that its mask leaves free. -/
theorem encode_build : ∀ r ∈ opcodeTable, ∀ w, encode (r.build w) = r.pattern ||| w &&& ~~~r.mask := by
  simp only [opcodeTable, rowsSpecialA, rowsSpecialB, rowsImmediateA, rowsImmediateB, List.forall_mem_append, List.forall_mem_cons,
    List.not_mem_nil, false_implies, implies_true, and_true, encode, wRs, wRt, wRd, wShamt, wImm, wIndex, wCode, wSel,
    fieldAt_extractLsb', BitVec.or_assoc, ← BitVec.and_or_distrib_left]
  and_intros
  all_goals exact fun w => rfl

/-- The row of an instruction reads the instruction's operands back from its word. -/
theorem build_encode (i : Instr) : ∃ r, opcodeTable[i.ctorIdx]? = some r ∧ r.build (encode i) = i := by
  cases i
  all_goals
    refine ⟨_, rfl, ?_⟩
    simp (disch := decide) only [encode, wRs, wRt, wRd, wShamt, wImm, wIndex, wCode, wSel, BitVec.extractLsb'_or, extractLsb'_fieldAt,
      extractLsb'_fieldAt_of_apart, BitVec.reduceExtractLsb', BitVec.or_zero, BitVec.zero_or]

theorem Row.hits_iff (r : Row) (w : Word) : r.hits w = true ↔ w &&& r.mask = r.pattern := by
  simp [Row.hits]

/-- A word hits one row of the table at most. -/
theorem row_eq_of_hits {w : Word} {r q : Row} (hr : r ∈ opcodeTable) (hq : q ∈ opcodeTable) (rHits : r.hits w = true) (qHits : q.hits w = true) :
    r = q := by
  have symmetric : Std.Symm fun r q : Row => r.pattern &&& q.mask ≠ q.pattern &&& r.mask := ⟨fun _ _ => Ne.symm⟩
  by_contra differ
  apply opcodeTable_pairwise_conflict.forall hr hq differ
  rw [← r.hits_iff w |>.mp rHits, ← q.hits_iff w |>.mp qHits, BitVec.and_assoc, BitVec.and_assoc, BitVec.and_comm r.mask]

theorem findRow_eq_find? (w : Word) (rows : List Row) : findRow w rows = rows.find? (·.hits w) := by
  induction rows with
  | nil => rfl
  | cons r rest ih => cases hit : r.hits w <;> simp [findRow, hit, ih]

/-- The row that the decoder finds is the one row of the table that the word hits. -/
theorem findRow_opcodeTable_eq_some_iff (w : Word) (r : Row) : findRow w opcodeTable = some r ↔ r ∈ opcodeTable ∧ r.hits w = true := by
  rw [findRow_eq_find?]
  constructor
  · exact fun found => ⟨List.mem_of_find?_eq_some found, List.find?_some (p := (Row.hits · w)) found⟩
  · rintro ⟨hr, rHits⟩
    have isFound : (opcodeTable.find? (Row.hits · w)).isSome := List.find?_isSome.mpr ⟨r, hr, rHits⟩
    obtain ⟨q, found⟩ := Option.isSome_iff_exists.mp isFound
    have qHits := List.find?_some (p := (Row.hits · w)) found
    rw [found, row_eq_of_hits hr (List.mem_of_find?_eq_some found) rHits qHits]

/-! The decoder. -/

theorem decode_eq_none_iff (w : Word) : decode w = none ↔ ∀ r ∈ opcodeTable, r.hits w = false := by
  simp [decode, findRow_eq_find?]

theorem decode_eq_some_iff (w : Word) (i : Instr) : decode w = some i ↔ ∃ r ∈ opcodeTable, r.hits w = true ∧ r.build w = i := by
  simp [decode, findRow_opcodeTable_eq_some_iff, and_assoc]

/-- R153: a word that decodes has no bits but those of its row's pattern and of its fields. -/
theorem encode_of_decode {w : Word} {i : Instr} (decodes : decode w = some i) : encode i = w := by
  obtain ⟨r, hr, rHits, rfl⟩ := (decode_eq_some_iff w i).mp decodes
  calc encode (r.build w) = r.pattern ||| w &&& ~~~r.mask := encode_build r hr w
    _ = w &&& (r.mask ||| ~~~r.mask) := by rw [← (r.hits_iff w).mp rHits, BitVec.and_or_distrib_left]
    _ = w := by rw [BitVec.or_not_self, BitVec.and_allOnes]

/-- R153: the word of an instruction holds its row's pattern under the mask, so it hits the row that reads its operands back. -/
theorem decode_encode (i : Instr) : decode (encode i) = some i := by
  obtain ⟨r, atIndex, built⟩ := build_encode i
  have hr := List.mem_of_getElem? atIndex
  have word := encode_build r hr (encode i)
  rw [built] at word
  have masked : encode i &&& r.mask = r.pattern :=
    calc encode i &&& r.mask = (r.pattern ||| encode i &&& ~~~r.mask) &&& r.mask := congrArg (· &&& r.mask) word
      _ = r.pattern := by simp [BitVec.and_or_distrib_right, BitVec.and_assoc, pattern_and_mask r hr]
  exact (decode_eq_some_iff _ i).mpr ⟨r, hr, (r.hits_iff _).mpr masked, built⟩

/-- R142: the four bytes of a word, the first at the lowest address, decode as the word and leave the bytes after them. -/
theorem decodeBytes_bytesOfWord {w : Word} {i : Instr} (decodes : decode w = some i) (rest : List Byte) :
    decodeBytes (bytesOfWord w ++ rest) = .ok (i, rest) := by
  simp [decodeBytes, bytesOfWord, decodes]

/-! The statements. -/

/-- Settles O1: each row reads back the fields it holds, and its fields are all the bits that its mask leaves free. -/
theorem decodeAndEncodeAreInverse : Obligations.DecodeAndEncodeAreInverse :=
  ⟨decode_encode, fun i => decodeBytes_bytesOfWord (decode_encode i), fun _ _ => encode_of_decode⟩

/-- Settles O2: a word hits one row at most, and the decoder answers by the first row it hits. -/
theorem tableRowsAreDisjoint : Obligations.TableRowsAreDisjoint := by
  intro w
  refine ⟨fun r q hr hq rHits qHits => ?_, decode_eq_none_iff w⟩
  rw [row_eq_of_hits hr hq rHits qHits]

/-- Settles O3: the words are closed terms, so the decoder runs on each. -/
theorem specWordsDecode : Obligations.SpecWordsDecode := by
  unfold Obligations.SpecWordsDecode
  decide

end Sys2Proof

/-! PROOFS of the statements of 31_assembly_syntax.md: the constants that the expansions of LI and LA load (R177, R178), and the operands that the
assembler stores for labels (R173). -/

namespace Sys2Proof.Machine

/-! Instructions executed one after another that leave a value in one register (R178). -/

/-- Executing `is` from `s` completes, leaves `v` in register `rd` and every other general register unchanged. -/
def LoadsValue (rd : Reg) (v : Word) (is : List Instr) (s : State) : Prop :=
  ∃ t, execAll is s = .next t ∧ t.x rd = v ∧ ∀ q, q ≠ rd → t.x q = s.x q

theorem loadsValue_nil {rd : Reg} {v : Word} {s : State} (held : s.x rd = v) : LoadsValue rd v [] s :=
  ⟨s, rfl, held, fun _ _ => rfl⟩

/-- An instruction that writes `w` to `rd`, before instructions that load `v` into `rd` wherever `rd` holds `w`. -/
theorem loadsValue_cons {rd : Reg} {v w : Word} {i : Instr} {is : List Instr} {s : State} (hrd : rd ≠ 0#5)
    (first : ∃ t, exec i s = .next t ∧ WritesRegister (some rd) w none s t) (rest : ∀ t : State, t.x rd = w → LoadsValue rd v is t) :
    LoadsValue rd v (i :: is) s := by
  obtain ⟨t, run, written, -⟩ := first
  obtain ⟨u, runRest, value, others⟩ := rest t (by simp [written rd, hrd])
  refine ⟨u, by simp [execAll, run, runRest], value, fun q hq => ?_⟩
  rw [others q hq, written q, if_neg (by simp [hq.symm])]

theorem loadsValue_addiu {rd : Reg} (hrd : rd ≠ 0#5) (imm : Imm) (s : State) : LoadsValue rd (immS imm) [.addiu rd 0#5 imm] s :=
  loadsValue_cons hrd (commit_result (some rd) (s.x 0#5 + immS imm) none s) fun _ held => loadsValue_nil (by simp [held])

theorem loadsValue_ori {rd : Reg} (hrd : rd ≠ 0#5) (rs : Reg) (imm : Imm) (s : State) :
    LoadsValue rd (s.x rs ||| immZ imm) [.ori rd rs imm] s :=
  loadsValue_cons hrd (commit_result (some rd) (s.x rs ||| immZ imm) none s) fun _ => loadsValue_nil

theorem loadsValue_lui {rd : Reg} (hrd : rd ≠ 0#5) (imm : Imm) (s : State) : LoadsValue rd (immUpper imm) [.lui rd imm] s :=
  loadsValue_cons hrd (commit_result (some rd) (immUpper imm) none s) fun _ => loadsValue_nil

theorem loadsValue_lui_ori {rd : Reg} (hrd : rd ≠ 0#5) (hi lo : Imm) (s : State) :
    LoadsValue rd (immUpper hi ||| immZ lo) [.lui rd hi, .ori rd rd lo] s :=
  loadsValue_cons hrd (commit_result (some rd) (immUpper hi) none s) fun t held => held ▸ loadsValue_ori hrd rd lo t

/-! The halves of a constant (R178). -/

theorem immZ_eq_append (imm : Imm) : immZ imm = 0#16 ++ imm := by
  apply BitVec.eq_of_toNat_eq
  rw [immZ, BitVec.toNat_setWidth_of_le (by decide), BitVec.toNat_append]
  simp

theorem immUpper_hiPart_or_immZ_loPart (v : Word) : immUpper (hiPart v) ||| immZ (loPart v) = v :=
  calc immUpper (hiPart v) ||| immZ (loPart v) = (hiPart v ++ 0#16) ||| (0#16 ++ loPart v) := by rw [immUpper, immZ_eq_append]
    _ = hiPart v ++ loPart v := by rw [BitVec.or_append]; simp
    _ = v.extractLsb' 0 32 := BitVec.extractLsb'_append_extractLsb'_eq_extractLsb' rfl
    _ = v := BitVec.extractLsb'_eq_self

theorem immUpper_hiPart {v : Word} (noLow : loPart v = 0#16) : immUpper (hiPart v) = v := by
  simpa [noLow, immZ] using immUpper_hiPart_or_immZ_loPart v

theorem immZ_loPart {v : Word} (fits : v.toNat ≤ 65535) : immZ (loPart v) = v := by
  apply BitVec.eq_of_toNat_eq
  simp only [immZ, loPart, BitVec.toNat_setWidth, BitVec.extractLsb'_toNat]
  omega

theorem immS_loPart {v : Word} (fits : -32768 ≤ v.toInt ∧ v.toInt ≤ 32767) : immS (loPart v) = v := by
  apply BitVec.eq_of_toInt_eq
  rw [immS, BitVec.toInt_signExtend_of_le (by decide), BitVec.toInt_eq_toNat_bmod]
  rw [BitVec.toInt_eq_toNat_bmod] at fits ⊢
  simp only [loPart, BitVec.extractLsb'_toNat, Int.bmod] at *
  omega

/-! The expansions. -/

/-- R177. -/
theorem loadsValue_pseudoLa {rd : Reg} (hrd : rd ≠ 0#5) (v : Word) (s : State) : LoadsValue rd v (pseudoLa rd v) s := by
  simpa only [pseudoLa, immUpper_hiPart_or_immZ_loPart] using loadsValue_lui_ori hrd (hiPart v) (loPart v) s

/-- R178: each form is taken where it loads the constant, and the last form, which is LA's, loads every one. -/
theorem loadsValue_pseudoLi {rd : Reg} (hrd : rd ≠ 0#5) (v : Word) (s : State) : LoadsValue rd v (pseudoLi rd v) s := by
  unfold pseudoLi
  split_ifs with signed unsigned noLow
  · simpa only [immS_loPart signed] using loadsValue_addiu hrd (loPart v) s
  · simpa only [State.x_zero, BitVec.zero_or, immZ_loPart unsigned] using loadsValue_ori hrd 0#5 (loPart v) s
  · simpa only [immUpper_hiPart noLow] using loadsValue_lui hrd (hiPart v) s
  · exact loadsValue_pseudoLa hrd v s

/-! The label operands (R173). -/

/-- R173: the immediate stored for a label is the signed distance to it in words. -/
theorem branchOperand_eq_some_iff (pc label : Word) (imm : Imm) :
    branchOperand pc label = some imm ↔ (label - (pc + 4#32)).toInt = 4 * imm.toInt := by
  have low := imm.le_toInt
  have high := imm.toInt_lt
  unfold branchOperand
  generalize (label - (pc + 4#32)).toInt = d
  simp only [Option.ite_none_right_eq_some, Option.some.injEq]
  constructor
  · rintro ⟨⟨aligned, atLeast, atMost⟩, rfl⟩
    rw [BitVec.toInt_ofInt_eq_self (by decide) atLeast (Int.lt_of_le_of_lt atMost (by decide))]
    omega
  · rintro rfl
    exact ⟨by omega, by simp⟩

/-- R251: the target of a branch is the label where the signed distance to the label is the immediate in words. -/
theorem branchTarget_eq_iff (pc label : Word) (imm : Imm) :
    branchTarget pc imm = label ↔ (label - (pc + 4#32)).toInt = 4 * imm.toInt := by
  have offset : ((imm ++ 0#2).signExtend 32 : Word).toInt = 4 * imm.toInt := by
    rw [BitVec.toInt_signExtend_of_le (by decide), BitVec.toInt_append_zero]
    omega
  rw [← offset, BitVec.toInt_inj, branchTarget, eq_comm, BitVec.sub_eq_iff_eq_add, BitVec.add_comm]

/-- The high bits, the middle bits and the low bits of a word of three parts. -/
theorem append_append_eq_iff {a b c : Nat} (x : BitVec a) (y : BitVec b) (z : BitVec c) (w : BitVec (a + b + c)) :
    x ++ y ++ z = w ↔ w.extractLsb' (c + b) a = x ∧ w.extractLsb' c b = y ∧ w.extractLsb' 0 c = z := by
  constructor
  · rintro rfl
    refine ⟨?_, ?_, BitVec.extractLsb'_append_eq_right⟩
    · rw [BitVec.extractLsb'_append_eq_of_le (Nat.le_add_right c b), Nat.add_sub_cancel_left, BitVec.extractLsb'_append_eq_left]
    · rw [BitVec.extractLsb'_append_eq_of_le le_rfl, Nat.sub_self, BitVec.extractLsb'_append_eq_right]
  · rintro ⟨rfl, rfl, rfl⟩
    rw [BitVec.extractLsb'_append_extractLsb'_eq_extractLsb' rfl,
      BitVec.extractLsb'_append_extractLsb'_eq_extractLsb' (Nat.zero_add c).symm, BitVec.extractLsb'_eq_self]

theorem jumpOperand_eq_some_iff (pc label : Word) (index : Index) : jumpOperand pc label = some index ↔ jumpTarget pc index = label := by
  have parts := append_append_eq_iff ((pc + 4#32).extractLsb' 28 4) index 0#2 label
  simp only [jumpOperand, jumpTarget, Option.ite_none_right_eq_some, Option.some.injEq]
  rw [parts]
  tauto

/-! The statements. -/

/-- Settles O59: each expansion is a form that loads the constant from its halves. -/
theorem constantExpansionsLoadTheConstant : Obligations.ConstantExpansionsLoadTheConstant :=
  fun s _ v hrd => ⟨loadsValue_pseudoLi hrd v s, loadsValue_pseudoLa hrd v s⟩

/-- Settles O60: operand and target of a branch tell the same distance to the label, and those of a jump the same three parts of it. -/
theorem labelOperandsReachTheirLabel : Obligations.LabelOperandsReachTheirLabel :=
  fun pc label => ⟨fun imm => (branchOperand_eq_some_iff pc label imm).trans (branchTarget_eq_iff pc label imm).symm,
    jumpOperand_eq_some_iff pc label⟩

end Sys2Proof.Machine

/-! PROOFS of the statements of 40_arith_logic.md: the word that each register arithmetic, logic, comparison and shift instruction writes, with
that of its immediate form, and the signed overflow trap of ADD, SUB and ADDI (R200, R202, R271). -/

namespace Sys2Proof.Machine

/-! An instruction that yields one word. -/

/-- An instruction whose block yields a word that meets `P` completes, and writes such a word to its destination alone. -/
theorem exec_yields {i : Instr} {dest : Reg} {v : Word} {s : State} {P : Word → Prop}
    (run : exec i s = commit (some dest) (yields v) s) (value : P v) :
    ∃ t w, exec i s = .next t ∧ WritesRegister (some dest) w none s t ∧ P w := by
  obtain ⟨t, next, writes⟩ := commit_result (some dest) v none s
  exact ⟨t, v, run.trans next, writes, value⟩

/-! Exact results, kept in a word (R200 to R203). -/

theorem add_eq_ofInt_toInt (a b : Word) : a + b = BitVec.ofInt 32 (a.toInt + b.toInt) := by
  simp [BitVec.ofInt_add]

theorem sub_eq_ofInt_toInt (a b : Word) : a - b = BitVec.ofInt 32 (a.toInt - b.toInt) := by
  simp [Int.sub_eq_add_neg, BitVec.ofInt_add, BitVec.ofInt_neg, BitVec.sub_eq_add_neg]

/-- R147. -/
theorem toInt_immS (imm : Imm) : (immS imm).toInt = imm.toInt :=
  BitVec.toInt_signExtend_of_le (by decide)

/-- A word holds an exact result modulo 2^32. -/
theorem toNat_ofInt_eq_emod (exact : Int) : ((BitVec.ofInt 32 exact).toNat : Int) = exact % 2 ^ 32 := by
  rw [BitVec.toNat_ofInt, Int.toNat_of_nonneg (Int.emod_nonneg _ (by decide))]
  rfl

theorem toNat_add_eq_emod (a b : Word) : ((a + b).toNat : Int) = ((a.toNat : Int) + b.toNat) % 2 ^ 32 := by
  rw [← toNat_ofInt_eq_emod]
  simp [BitVec.ofInt_add]

theorem toNat_sub_eq_emod (a b : Word) : ((a - b).toNat : Int) = ((a.toNat : Int) - b.toNat) % 2 ^ 32 := by
  rw [← toNat_ofInt_eq_emod]
  simp [Int.sub_eq_add_neg, BitVec.ofInt_add, BitVec.ofInt_neg, BitVec.sub_eq_add_neg]

theorem toNat_add_immS_eq_emod (a : Word) (imm : Imm) : ((a + immS imm).toNat : Int) = ((a.toNat : Int) + imm.toInt) % 2 ^ 32 := by
  rw [← toNat_ofInt_eq_emod, ← toInt_immS]
  simp [BitVec.ofInt_add]

/-! Signed overflow (R200, R202, R271). -/

theorem outOfRange_iff (exact : Int) : outOfRange exact = true ↔ exact < -(2 ^ 31) ∨ exact > 2 ^ 31 - 1 := by
  simp [outOfRange]

/-- The block of ADD, SUB and ADDI, from the exact result. -/
def yieldsInRange (exact : Int) : OpOut :=
  if outOfRange exact then .trap .overflow none else yields (BitVec.ofInt 32 exact)

theorem opAdd_eq_yieldsInRange (a b : Word) : opAdd a b = yieldsInRange (a.toInt + b.toInt) := by
  rw [opAdd, add_eq_ofInt_toInt]
  rfl

theorem opSub_eq_yieldsInRange (a b : Word) : opSub a b = yieldsInRange (a.toInt - b.toInt) := by
  rw [opSub, sub_eq_ofInt_toInt]
  rfl

/-- R271: ADDI is ADD of the sign-extended immediate. -/
theorem opAddi_eq_yieldsInRange (a : Word) (imm : Imm) : opAddi a imm = yieldsInRange (a.toInt + imm.toInt) := by
  rw [← toInt_immS, ← opAdd_eq_yieldsInRange]
  rfl

/-- An instruction with this block completes or traps as the exact result decides. -/
theorem exec_yieldsInRange {i : Instr} {dest : Reg} {exact : Int} {s : State}
    (run : exec i s = commit (some dest) (yieldsInRange exact) s) :
    (-(2 ^ 31) ≤ exact ∧ exact ≤ 2 ^ 31 - 1 →
      ∃ t, exec i s = .next t ∧ WritesRegister (some dest) (BitVec.ofInt 32 exact) none s t) ∧
    (exact < -(2 ^ 31) ∨ exact > 2 ^ 31 - 1 → ∃ t, exec i s = .next t ∧ Traps .overflow 12#5 none s t) := by
  rw [run, yieldsInRange]
  constructor
  · intro fits
    rw [if_neg (by rw [outOfRange_iff]; omega)]
    exact commit_result (some dest) _ none s
  · intro out
    rw [if_pos ((outOfRange_iff exact).mpr out)]
    exact commit_trap (some dest) .overflow none s rfl

/-- R200: the test on the exact sum is the library's, at 32 bits. -/
theorem addOverflows_eq_saddOverflow (a b : Word) : addOverflows a b = a.saddOverflow b := by
  rw [addOverflows, outOfRange, Bool.or_comm, BitVec.saddOverflow]
  congr 1

/-- R202: and so is the test on the exact difference. -/
theorem subOverflows_eq_ssubOverflow (a b : Word) : subOverflows a b = a.ssubOverflow b := by
  rw [subOverflows, outOfRange, Bool.or_comm, BitVec.ssubOverflow]
  congr 1

/-! Bits of an immediate (R273 to R275). -/

theorem getLsbD_immZ (imm : Imm) (k : Nat) : (immZ imm).getLsbD k = (decide (k < 16) && imm.getLsbD k) := by
  rw [immZ, BitVec.getLsbD_setWidth]
  by_cases inside : k < 16
  · simp [inside, Nat.lt_trans inside]
  · simp [inside, BitVec.getLsbD_of_ge imm k (Nat.not_lt.mp inside)]

/-! Comparisons (R208, R209, R277, R278). -/

/-- SLTIU's sign-extended immediate as an unsigned number: at the bottom or at the top of the unsigned range. -/
theorem toNat_immS (imm : Imm) : (immS imm).toNat = if imm.toNat < 2 ^ 15 then imm.toNat else imm.toNat + (2 ^ 32 - 2 ^ 16) := by
  rw [immS, BitVec.toNat_signExtend, BitVec.toNat_setWidth_of_le (by decide), BitVec.msb_eq_decide]
  simp only [decide_eq_true_eq, ← Nat.not_lt, ite_not]
  split_ifs <;> rfl

/-- An instruction whose block yields the word of a test writes 1 or 0 as the test decides. -/
theorem exec_wordOfBool {i : Instr} {dest : Reg} {b : Bool} {less : Prop} {s : State}
    (run : exec i s = commit (some dest) (yields (wordOfBool b)) s) (test : b = true ↔ less) :
    (less → ∃ t, exec i s = .next t ∧ WritesRegister (some dest) 1#32 none s t) ∧
    (¬ less → ∃ t, exec i s = .next t ∧ WritesRegister (some dest) 0#32 none s t) := by
  rw [run, ← test]
  cases b
  · exact ⟨nofun, fun _ => commit_result (some dest) 0#32 none s⟩
  · exact ⟨fun _ => commit_result (some dest) 1#32 none s, fun isFalse => absurd rfl isFalse⟩

theorem lessSigned_iff (a b : Word) : lessSigned a b = true ↔ a.toInt < b.toInt := decide_eq_true_iff

theorem lessUnsigned_iff (a b : Word) : lessUnsigned a b = true ↔ a.toNat < b.toNat := decide_eq_true_iff

/-! Shifts (R210 to R215). -/

/-- R147. -/
theorem shiftAmount_eq_mod (v : Word) : shiftAmount v = v.toNat % 32 := by
  simp [shiftAmount]

theorem toNat_shiftLeft_eq_mul (b : Word) (n : Nat) : (b <<< n).toNat = b.toNat * 2 ^ n % 2 ^ 32 := by
  rw [BitVec.toNat_shiftLeft, Nat.shiftLeft_eq]

theorem toNat_ushiftRight_eq_div (b : Word) (n : Nat) : (b >>> n).toNat = b.toNat / 2 ^ n := by
  rw [BitVec.toNat_ushiftRight, Nat.shiftRight_eq_div_pow]

/-- R212: division of integers by a positive number rounds toward minus infinity. -/
theorem toInt_sshiftRight_eq_div (b : Word) (n : Nat) : (b.sshiftRight n).toInt = b.toInt / 2 ^ n := by
  rw [BitVec.toInt_sshiftRight, Int.shiftRight_eq_div_pow]
  rfl

/-! The statements. -/

/-- Settles O22: the three blocks are one, of the exact result. -/
theorem signedOverflowTraps : Obligations.SignedOverflowTraps := by
  rintro s i dest exact (⟨rs, rt, rfl, rfl⟩ | ⟨rs, rt, rfl, rfl⟩ | ⟨rs, imm, rfl, rfl⟩)
  · exact exec_yieldsInRange (congrArg (commit (some dest) · s) (opAdd_eq_yieldsInRange (s.x rs) (s.x rt)))
  · exact exec_yieldsInRange (congrArg (commit (some dest) · s) (opSub_eq_yieldsInRange (s.x rs) (s.x rt)))
  · exact exec_yieldsInRange (congrArg (commit (some dest) · s) (opAddi_eq_yieldsInRange (s.x rs) imm))

/-- Settles O23: the tests on exact results are the library's, which it gives on the top bits. -/
theorem overflowBitTestsAgree : Obligations.OverflowBitTestsAgree := by
  intro a b
  rw [addOverflows_eq_saddOverflow, subOverflows_eq_ssubOverflow, BitVec.saddOverflow_eq, BitVec.ssubOverflow_eq]
  simp only [BitVec.msb_eq_getLsbD_last, Nat.add_one_sub_one]
  constructor
  · simp
  · cases a.getLsbD 31 <;> cases b.getLsbD 31 <;> simp

/-- Settles O24: the word of each is its exact result modulo 2^32. -/
theorem wrappingArithmeticNeverTraps : Obligations.WrappingArithmeticNeverTraps := by
  rintro s i dest exact (⟨rs, rt, rfl, rfl⟩ | ⟨rs, rt, rfl, rfl⟩ | ⟨rs, imm, rfl, rfl⟩)
  · exact exec_yields rfl (toNat_add_eq_emod (s.x rs) (s.x rt))
  · exact exec_yields rfl (toNat_sub_eq_emod (s.x rs) (s.x rt))
  · exact exec_yields rfl (toNat_add_immS_eq_emod (s.x rs) imm)

/-- Settles O25: each word is read bit by bit, and a zero-extended immediate has no bits from 16 up. -/
theorem bitwiseLogicIsPerBit : Obligations.BitwiseLogicIsPerBit := by
  rintro s i dest bit (⟨rs, rt, rfl, rfl⟩ | ⟨rs, rt, rfl, rfl⟩ | ⟨rs, rt, rfl, rfl⟩ | ⟨rs, rt, rfl, rfl⟩ |
    ⟨rs, imm, rfl, rfl⟩ | ⟨rs, imm, rfl, rfl⟩ | ⟨rs, imm, rfl, rfl⟩)
  · exact exec_yields (v := s.x rs &&& s.x rt) rfl fun _ _ => BitVec.getLsbD_and
  · exact exec_yields (v := s.x rs ||| s.x rt) rfl fun _ _ => BitVec.getLsbD_or
  · exact exec_yields (v := s.x rs ^^^ s.x rt) rfl fun _ _ => BitVec.getLsbD_xor
  · exact exec_yields (v := ~~~(s.x rs ||| s.x rt)) rfl fun k hk => by simp [hk]
  · exact exec_yields (v := s.x rs &&& immZ imm) rfl fun _ _ => by rw [BitVec.getLsbD_and, getLsbD_immZ]
  · exact exec_yields (v := s.x rs ||| immZ imm) rfl fun _ _ => by rw [BitVec.getLsbD_or, getLsbD_immZ]
  · exact exec_yields (v := s.x rs ^^^ immZ imm) rfl fun _ _ => by rw [BitVec.getLsbD_xor, getLsbD_immZ]

/-- Settles O26: the operands of each are compared as the statement compares them. -/
theorem comparisonsWriteOneOrZero : Obligations.ComparisonsWriteOneOrZero := by
  rintro s i dest less (⟨rs, rt, rfl, rfl⟩ | ⟨rs, rt, rfl, rfl⟩ | ⟨rs, imm, rfl, rfl⟩ | ⟨rs, imm, rfl, rfl⟩)
  · exact exec_wordOfBool rfl (lessSigned_iff (s.x rs) (s.x rt))
  · exact exec_wordOfBool rfl (lessUnsigned_iff (s.x rs) (s.x rt))
  · rw [← toInt_immS]
    exact exec_wordOfBool rfl (lessSigned_iff (s.x rs) (immS imm))
  · rw [← toNat_immS]
    exact exec_wordOfBool rfl (lessUnsigned_iff (s.x rs) (immS imm))

/-- Settles O27: a shift by the low five bits of `rs` is one by that constant. -/
theorem shiftsMoveByFiveBits : Obligations.ShiftsMoveByFiveBits := by
  intro s i dest rt n
  refine ⟨?_, ?_, ?_⟩ <;> simp only [← shiftAmount_eq_mod]
  · rintro (⟨shamt, rfl, rfl⟩ | ⟨rs, rfl, rfl⟩)
    · exact exec_yields rfl (toNat_shiftLeft_eq_mul (s.x rt) shamt.toNat)
    · exact exec_yields rfl (toNat_shiftLeft_eq_mul (s.x rt) (shiftAmount (s.x rs)))
  · rintro (⟨shamt, rfl, rfl⟩ | ⟨rs, rfl, rfl⟩)
    · exact exec_yields rfl (toNat_ushiftRight_eq_div (s.x rt) shamt.toNat)
    · exact exec_yields rfl (toNat_ushiftRight_eq_div (s.x rt) (shiftAmount (s.x rs)))
  · rintro (⟨shamt, rfl, rfl⟩ | ⟨rs, rfl, rfl⟩)
    · exact exec_yields rfl (toInt_sshiftRight_eq_div (s.x rt) shamt.toNat)
    · exact exec_yields rfl (toInt_sshiftRight_eq_div (s.x rt) (shiftAmount (s.x rs)))

end Sys2Proof.Machine

/-! PROOFS of the statements of 41_muldiv.md: HI and LO after a multiplication, a division and a move (R221 to R228). -/

namespace Sys2Proof.Machine

/-! An instruction that writes HI and LO (R229). -/

theorem exec_writesHiLo {i : Instr} {hi lo : Word} {s : State} (run : exec i s = commit none (writesHiLo hi lo) s) :
    ∃ t, exec i s = .next t ∧ WritesHiLo hi lo s t ∧ t.draws = s.draws := by
  rw [run]
  exact commit_hiLo (some hi) (some lo) false s

/-- HI and LO joined are the product that was split. -/
theorem exec_splitProduct {i : Instr} {p : BitVec 64} {s : State} (run : exec i s = commit none (splitProduct p) s) :
    ∃ t hi lo, exec i s = .next t ∧ WritesHiLo hi lo s t ∧ t.draws = s.draws ∧ hi ++ lo = p := by
  obtain ⟨t, next, writes, draws⟩ := exec_writesHiLo run
  exact ⟨t, _, _, next, writes, draws, BitVec.extractLsb'_append_extractLsb'⟩

/-- R223, R224: HI and LO are the free pair of this draw, and the draw is counted. -/
theorem exec_dividesByZero {i : Instr} {s : State} (run : exec i s = commit none (dividesByZero s.draws) s) :
    ∃ t, exec i s = .next t ∧ WritesHiLo (Config.div0Result s.draws).1 (Config.div0Result s.draws).2 s t ∧ t.draws = s.draws + 1 := by
  rw [run]
  exact commit_hiLo (some _) (some _) true s

/-! Products fit in 64 bits (R221, R222). -/

theorem toInt_ofInt_toInt_mul_toInt (a b : Word) : (BitVec.ofInt 64 (a.toInt * b.toInt)).toInt = a.toInt * b.toInt := by
  have low : -(2 ^ 62) ≤ a.toInt * b.toInt := BitVec.le_toInt_mul_toInt
  have high : a.toInt * b.toInt ≤ 2 ^ 62 := BitVec.toInt_mul_toInt_le
  exact BitVec.toInt_ofInt_eq_self (by decide) (by omega) (by omega)

theorem toNat_ofNat_toNat_mul_toNat (a b : Word) : (BitVec.ofNat 64 (a.toNat * b.toNat)).toNat = a.toNat * b.toNat := by
  have fits : a.toNat * b.toNat < 2 ^ 32 * 2 ^ 32 := Nat.mul_lt_mul'' a.isLt b.isLt
  rw [BitVec.toNat_ofNat]
  exact Nat.mod_eq_of_lt fits

/-! Division (R223, R224). -/

theorem opDiv_of_eq_zero (a : Word) {b : Word} (h : b = 0#32) (draws : Nat) : opDiv a b draws = dividesByZero draws :=
  if_pos (by rw [h, BitVec.toInt_zero])

theorem opDivu_of_eq_zero (a : Word) {b : Word} (h : b = 0#32) (draws : Nat) : opDivu a b draws = dividesByZero draws :=
  if_pos (by rw [h, BitVec.toNat_zero])

theorem opDiv_of_ne_zero (a : Word) {b : Word} (h : b.toInt ≠ 0) (draws : Nat) :
    opDiv a b draws = writesHiLo (BitVec.ofInt 32 (a.toInt.tmod b.toInt)) (BitVec.ofInt 32 (a.toInt.tdiv b.toInt)) := by
  simp only [opDiv, if_neg h, Int.tdiv_mul_self, Int.sub_sub_self]

theorem opDivu_of_ne_zero (a : Word) {b : Word} (h : b.toNat ≠ 0) (draws : Nat) : opDivu a b draws = writesHiLo (a % b) (a / b) := by
  simp only [opDivu, if_neg h, ← BitVec.toNat_umod, ← BitVec.toNat_udiv, BitVec.ofNat_toNat, BitVec.setWidth_eq]

theorem tmod_natAbs_lt (n : Int) {d : Int} (h : d ≠ 0) : (n.tmod d).natAbs < d.natAbs := by
  rw [Int.natAbs_tmod]
  exact Nat.mod_lt _ (Int.natAbs_pos.mpr h)

theorem tmod_nonpos {n : Int} (d : Int) (h : n ≤ 0) : n.tmod d ≤ 0 := by
  have negated : 0 ≤ (-n).tmod d := Int.tmod_nonneg d (by omega)
  rw [Int.neg_tmod] at negated
  omega

/-! The statements. -/

/-- Settles O29: the exact product fits in 64 bits, so splitting it loses nothing. -/
theorem productFillsHiAndLo : Obligations.ProductFillsHiAndLo := by
  intro s rs rt
  constructor
  · obtain ⟨t, hi, lo, next, writes, draws, joined⟩ := exec_splitProduct (i := .mult rs rt) (s := s) rfl
    exact ⟨t, hi, lo, next, writes, draws, joined ▸ toInt_ofInt_toInt_mul_toInt (s.x rs) (s.x rt)⟩
  · obtain ⟨t, hi, lo, next, writes, draws, joined⟩ := exec_splitProduct (i := .multu rs rt) (s := s) rfl
    exact ⟨t, hi, lo, next, writes, draws, joined ▸ toNat_ofNat_toNat_mul_toNat (s.x rs) (s.x rt)⟩

/-- Settles O30: DIV is the library's division that rounds toward zero, with its remainder; DIVU is that of the words. -/
theorem divisionFillsHiAndLo : Obligations.DivisionFillsHiAndLo := by
  intro s rs rt
  refine ⟨fun divisor => ?_, fun divisor => ?_, fun divisor => ⟨?_, ?_⟩⟩
  · obtain ⟨t, next, writes, draws⟩ := exec_writesHiLo (i := .div rs rt) (congrArg (commit none · s) (opDiv_of_ne_zero (s.x rs) divisor s.draws))
    exact ⟨t, _, _, next, writes, draws, (Int.tdiv_mul_add_tmod _ _).symm, tmod_natAbs_lt _ divisor, Int.tmod_nonneg _, tmod_nonpos _⟩
  · obtain ⟨t, next, writes, draws⟩ := exec_writesHiLo (i := .divu rs rt) (congrArg (commit none · s) (opDivu_of_ne_zero (s.x rs) divisor s.draws))
    exact ⟨t, _, _, next, writes, draws, BitVec.toNat_udiv, BitVec.toNat_umod⟩
  · exact exec_dividesByZero (congrArg (commit none · s) (opDiv_of_eq_zero (s.x rs) divisor s.draws))
  · exact exec_dividesByZero (congrArg (commit none · s) (opDivu_of_eq_zero (s.x rs) divisor s.draws))

/-- Settles O31: MTHI writes HI and the LO that was there, MTLO the reverse. -/
theorem hiLoMoves : Obligations.HiLoMoves := by
  intro s r
  refine ⟨?_, ?_, ?_, ?_⟩
  · exact commit_result (some r) s.hi none s
  · exact commit_result (some r) s.lo none s
  · exact commit_hiLo (some (s.x r)) none false s
  · exact commit_hiLo none (some (s.x r)) false s

end Sys2Proof.Machine

/-! PROOFS of the statements of 42_load_store.md: the five loads and the three stores in every case of the effective address (R237 to R244), and a
load after a store (R245). -/

namespace Sys2Proof.Machine

/-! The value of a load (R237 to R241). -/

theorem toNat_setWidth_low (v : Word) {w : Nat} (hw : w ≤ 32) : ((v.extractLsb' 0 w).setWidth 32).toNat = v.toNat % 2 ^ w := by
  rw [BitVec.toNat_setWidth_of_le hw, BitVec.extractLsb'_toNat, Nat.shiftRight_zero]

theorem toInt_signExtend_low (v : Word) {w : Nat} (hw : w ≤ 32) :
    ((v.extractLsb' 0 w).signExtend 32).toInt = (v.toNat : Int).bmod (2 ^ w) := by
  rw [BitVec.toInt_signExtend_of_le hw, BitVec.toInt_eq_toNat_bmod, BitVec.extractLsb'_toNat, Nat.shiftRight_zero, Int.natCast_mod,
    Int.emod_bmod]

theorem toNat_extendLoad_unsigned (n : Width) (v : Word) : (extendLoad n false v).toNat = v.toNat % 2 ^ (8 * widthBytes n) := by
  cases n with
  | byte => exact toNat_setWidth_low v (w := 8) (by decide)
  | half => exact toNat_setWidth_low v (w := 16) (by decide)
  | word => exact (Nat.mod_eq_of_lt v.isLt).symm

theorem toInt_extendLoad_signed (n : Width) (v : Word) : (extendLoad n true v).toInt = (v.toNat : Int).bmod (2 ^ (8 * widthBytes n)) := by
  cases n with
  | byte => exact toInt_signExtend_low v (by decide)
  | half => exact toInt_signExtend_low v (by decide)
  | word => exact BitVec.toInt_eq_toNat_bmod v

/-- R64: the data side gives an access no more bits than its width has. -/
theorem State.dataValue_lt (s : State) (a : Word) (n : Width) : (s.dataValue a n).toNat < 2 ^ (8 * widthBytes n) := by
  cases n with
  | byte =>
    rw [State.dataValue, BitVec.toNat_setWidth_of_le (by decide)]
    exact BitVec.isLt _
  | half =>
    rw [State.dataValue, BitVec.toNat_setWidth_of_le (by decide)]
    exact BitVec.isLt _
  | word => exact BitVec.isLt _

theorem extendLoad_unsigned_dataValue (s : State) (a : Word) (n : Width) : extendLoad n false (s.dataValue a n) = s.dataValue a n := by
  apply BitVec.eq_of_toNat_eq
  rw [toNat_extendLoad_unsigned, Nat.mod_eq_of_lt (s.dataValue_lt a n)]

/-- R72: a peripheral gives an access the low bits of its free value. -/
theorem State.toNat_periphRead (s : State) (src : AccessSource) (device offset : Nat) (n : Width) :
    (s.periphRead src device offset n).1.toNat = (Config.periphRead s.draws device offset n src).toNat % 2 ^ (8 * widthBytes n) := by
  cases n with
  | byte => exact toNat_setWidth_low _ (by decide)
  | half => exact toNat_setWidth_low _ (by decide)
  | word => exact (Nat.mod_eq_of_lt (BitVec.isLt _)).symm

/-! A data access by the kind of its address (R66, R67). -/

theorem alignedTo_iff (a : Word) (n : Width) : alignedTo a n = true ↔ a.toNat % widthBytes n = 0 := decide_eq_true_iff

/-- R61: a peripheral range is past the cache. -/
theorem uncached_of_peripheral {g : Config} (hg : g.wellFormed = true) {a : Word} {r : Range} {device : Nat} (hr : rangeOf g a = some r)
    (hb : r.backend = .peripheral device) : r.uncached = true := by
  obtain ⟨_, _, _, _, _, _, periph⟩ := (Config.wellFormed_iff g).1 hg
  exact periph r device (rangeIn_some hr).1 hb

section
variable {s : State} {a : Word} {n : Width}

theorem memRead_misaligned (ha : a.toNat % widthBytes n ≠ 0) : s.memRead a n = .trap (.unalignedAccess .load) a := by
  simp [State.memRead, alignedTo_iff, ha]

theorem memWrite_misaligned (ha : a.toNat % widthBytes n ≠ 0) (v : Word) : s.memWrite a v n = .trap (.unalignedAccess .store) a := by
  simp [State.memWrite, alignedTo_iff, ha]

variable (ha : a.toNat % widthBytes n = 0)
include ha

theorem memRead_unmapped (hr : rangeOf s.cfg a = none) : s.memRead a n = .trap (.busError .data) a := by
  simp [State.memRead, alignedTo_iff, ha, hr]

theorem memWrite_unmapped (hr : rangeOf s.cfg a = none) (v : Word) : s.memWrite a v n = .trap (.busError .data) a := by
  simp [State.memWrite, alignedTo_iff, ha, hr]

/-- An aligned read of RAM, through the cache or past it, completes without a draw. -/
theorem memRead_ram (hram : s.inRam a) : ∃ v k m, s.memRead a n = .ok v { s with dCache := k, mem := m } := by
  rcases State.memRead_cases s a n with ⟨mis, _⟩ | ⟨_, unmapped, _⟩ | ⟨r, _, hr, ⟨_, _, e⟩ | ⟨_, _, e⟩ | ⟨_, ⟨_, peripheral⟩, _⟩⟩
  · exact absurd ((alignedTo_iff a n).2 ha) (by simp [mis])
  · obtain ⟨r, hr, _⟩ := hram
    simp [unmapped] at hr
  · exact ⟨_, _, _, e⟩
  · exact ⟨_, _, _, e⟩
  · exact (hram.not_peripheral hr peripheral).elim

theorem memWrite_ram (hram : s.inRam a) (v : Word) : ∃ k m, s.memWrite a v n = .ok { s with dCache := k, mem := m } := by
  rcases State.memWrite_cases s a v n with ⟨mis, _⟩ | ⟨_, unmapped, _⟩ | ⟨r, _, hr, ⟨_, _, e⟩ | ⟨_, _, e⟩ | ⟨_, ⟨_, peripheral⟩, _⟩⟩
  · exact absurd ((alignedTo_iff a n).2 ha) (by simp [mis])
  · obtain ⟨r, hr, _⟩ := hram
    simp [unmapped] at hr
  · exact ⟨_, _, e⟩
  · exact ⟨_, _, e⟩
  · exact (hram.not_peripheral hr peripheral).elim

variable (hg : s.cfg.wellFormed = true) {r : Range} {device : Nat} (hr : rangeOf s.cfg a = some r) (hb : r.backend = .peripheral device)
include hg hr hb

/-- R62: an aligned read of a peripheral range is one of its device, past the cache. -/
theorem memRead_peripheral :
    s.memRead a n = .ok (s.periphRead .cpu device (Range.offset r a) n).1 { s with draws := s.draws + 1 } := by
  simp [State.memRead, State.backendRead, alignedTo_iff, ha, hr, hb, uncached_of_peripheral hg hr hb]

theorem memWrite_peripheral (v : Word) : s.memWrite a v n = .ok s := by
  simp [State.memWrite, State.backendWrite, alignedTo_iff, ha, hr, hb, uncached_of_peripheral hg hr hb]

end

/-! A load or a store, by what its access does: a commit on the state that the access leaves. -/

section
variable {dest : Option Reg} {s m : State} {a v : Word} {n : Width}

theorem commit_load_ok (signed : Bool) (h : s.memRead a n = .ok v m) :
    commit dest (.done { memop := some (.load a n signed) }) s = commit dest (.done { result := some (extendLoad n signed v) }) m := by
  simp only [commit, h]
  rfl

theorem commit_load_trap (signed : Bool) {k : TrapKind} {bad : Word} (h : s.memRead a n = .trap k bad) :
    commit dest (.done { memop := some (.load a n signed) }) s = commit dest (.trap k (some bad)) s := by
  simp only [commit, h]

theorem commit_store_ok (h : s.memWrite a v n = .ok m) :
    commit dest (.done { memop := some (.store a n v) }) s = commit dest (.done {}) (m.emit (.memory a n v)) := by
  simp only [commit, h]
  rfl

theorem commit_store_trap {k : TrapKind} {bad : Word} (h : s.memWrite a v n = .trap k bad) :
    commit dest (.done { memop := some (.store a n v) }) s = commit dest (.trap k (some bad)) s := by
  simp only [commit, h]

end

/-! The loads. -/

section
variable {rt : Reg} {i : Instr} {s : State} {a : Word} {n : Width} {signed : Bool}
  (run : exec i s = commit (some rt) (.done { memop := some (.load a n signed) }) s)
include run

theorem exec_load_trap {k : TrapKind} {code : BitVec 5} (h : s.memRead a n = .trap k a) (hc : trapCode k = some code) :
    ∃ t, exec i s = .next t ∧ Traps k code (some a) s t := by
  rw [run, commit_load_trap signed h]
  exact commit_trap _ k (some a) s hc

/-- R66, R237 to R241: a load from RAM. -/
theorem exec_load_ram (ha : a.toNat % widthBytes n = 0) (hram : s.inRam a) (hd : DataInv s) :
    ∃ t, exec i s = .next t ∧ GprWritten (some rt) (extendLoad n signed (s.dataValue a n)) s t ∧ HiLoKept s t ∧ Cp0Kept s t ∧
      DataKept s t ∧ MachineKept s t ∧ PcMoved none s t ∧ t.draws = s.draws := by
  obtain ⟨v, k, m, read⟩ := memRead_ram ha hram
  obtain ⟨kept, _⟩ := memRead_kept hd read
  rw [run, commit_load_ok signed read, memRead_value hd hram read]
  obtain ⟨t, next, gpr, hiLo, cp0, ⟨_, data, iCache, _⟩, machine, pc, draws⟩ :=
    commit_result (some rt) (extendLoad n signed (s.dataValue a n)) none { s with dCache := k, mem := m }
  exact ⟨t, next, gpr, hiLo, cp0, ⟨fun b => (data b).trans (kept b), iCache⟩, machine, pc, draws⟩

/-- R72, R237 to R241: a load from a peripheral. -/
theorem exec_load_peripheral (ha : a.toNat % widthBytes n = 0) (hg : s.cfg.wellFormed = true) {r : Range} {device : Nat}
    (hr : rangeOf s.cfg a = some r) (hb : r.backend = .peripheral device) :
    ∃ t, exec i s = .next t ∧ GprWritten (some rt) (extendLoad n signed (s.periphRead .cpu device (Range.offset r a) n).1) s t ∧
      HiLoKept s t ∧ Cp0Kept s t ∧ MemoryKept s t ∧ MachineKept s t ∧ PcMoved none s t ∧ t.draws = s.draws + 1 := by
  rw [run, commit_load_ok signed (memRead_peripheral ha hg hr hb)]
  exact commit_result _ _ none { s with draws := s.draws + 1 }

end

/-! The stores. -/

section
variable {i : Instr} {s : State} {a v : Word} {n : Width} (run : exec i s = commit none (.done { memop := some (.store a n v) }) s)
include run

theorem exec_store_trap {k : TrapKind} {code : BitVec 5} (h : s.memWrite a v n = .trap k a) (hc : trapCode k = some code) :
    ∃ t, exec i s = .next t ∧ Traps k code (some a) s t := by
  rw [run, commit_store_trap h]
  exact commit_trap _ k (some a) s hc

/-- R67, R242 to R244: a store to RAM. -/
theorem exec_store_ram (ha : a.toNat % widthBytes n = 0) (hram : s.inRam a) (hd : DataInv s) :
    ∃ t, exec i s = .next t ∧ GprWritten none 0#32 s t ∧ HiLoKept s t ∧ Cp0Kept s t ∧ MachineKept s t ∧ PcMoved none s t ∧
      t.draws = s.draws ∧ t.iCache = s.iCache ∧ Stores a v n s t := by
  obtain ⟨k, m, write⟩ := memWrite_ram ha hram v
  obtain ⟨stores, _⟩ := memWrite_stores hd hram write
  rw [run, commit_store_ok write]
  obtain ⟨t, next, gpr, hiLo, cp0, ⟨_, data, iCache, _⟩, machine, pc, draws⟩ :=
    commit_target none (State.emit (.memory a n v) { s with dCache := k, mem := m })
  exact ⟨t, next, gpr, hiLo, cp0, machine, pc, draws, iCache, fun b => (data b).trans (stores b)⟩

/-- R72: a store to a peripheral. -/
theorem exec_store_peripheral (ha : a.toNat % widthBytes n = 0) (hg : s.cfg.wellFormed = true) (hp : s.inPeripheral a) :
    ∃ t, exec i s = .next t ∧ WritesRegister none 0#32 none s t := by
  obtain ⟨r, device, hr, hb⟩ := hp
  rw [run, commit_store_ok (memWrite_peripheral ha hg hr hb v)]
  exact commit_target none (s.emit (.memory a n v))

end

/-! A word stored, and its bytes. -/

/-- R61: the ranges of a well-formed map begin and end at words, so the bytes of a word are in RAM together. -/
theorem State.inRam.same_word {s : State} (hg : s.cfg.wellFormed = true) {a b : Word} (h : s.inRam a) (hb : b.toNat / 4 = a.toNat / 4) :
    s.inRam b := by
  obtain ⟨r, hr, ram⟩ := h
  obtain ⟨mem, holds⟩ := rangeIn_some hr
  obtain ⟨_, _, _, bounds, -⟩ := (Config.wellFormed_iff s.cfg).1 hg
  obtain ⟨_, _, lo, hi⟩ := bounds r mem
  rw [Range.holds_iff] at holds
  exact ⟨r, rangeOf_eq hg mem (by omega), ram⟩

/-- R64: the byte `j` of a word stored. -/
theorem Stores.dataByte_add {a v : Word} {s t : State} (h : Stores a v .word s t) (ha : alignedTo a .word = true) {j : Nat} (hj : j < 4) :
    t.dataByte (a + BitVec.ofNat 32 j) = byteOfWord v j := by
  have within : touches a .word (a + BitVec.ofNat 32 j) := touches_add ha hj
  have aligned := (alignedTo_iff a .word).1 ha
  have offset : (a + BitVec.ofNat 32 j).toNat - a.toNat = j := by
    have below := a.isLt
    simp only [widthBytes] at aligned
    rw [BitVec.toNat_add, BitVec.toNat_ofNat]
    omega
  rw [h, if_pos within, storedByte, offset, byteOfWord]
  congr 1
  simp only [widthBytes]
  omega

theorem Stores.dataValue_word {a v : Word} {s t : State} (h : Stores a v .word s t) (ha : alignedTo a .word = true) : t.dataValue a .word = v := by
  have first : t.dataByte a = byteOfWord v 0 := by simpa using h.dataByte_add ha (j := 0) (by decide)
  have second := h.dataByte_add ha (j := 1) (by decide)
  have third := h.dataByte_add ha (j := 2) (by decide)
  have fourth := h.dataByte_add ha (j := 3) (by decide)
  rw [State.dataValue, first, second, third, fourth]
  exact wordOfBytes_byteOfWord v

/-- R66: an aligned read of RAM yields the value of the data side. -/
theorem memRead_eq_dataValue {s : State} (h : DataInv s) {a : Word} {n : Width} (ha : a.toNat % widthBytes n = 0) (hram : s.inRam a) :
    ∃ s', s.memRead a n = .ok (s.dataValue a n) s' := by
  obtain ⟨v, k, m, read⟩ := memRead_ram ha hram
  exact ⟨_, memRead_value h hram read ▸ read⟩

/-- R65, R67: only an aligned write succeeds. -/
theorem memWrite_ok_aligned {s t : State} {a v : Word} {n : Width} (h : s.memWrite a v n = .ok t) : a.toNat % widthBytes n = 0 := by
  by_contra mis
  rw [memWrite_misaligned mis] at h
  cases h

/-! The statements. -/

/-- Settles O32: a load is a commit of what its read yields, extended, on the state that the read leaves. -/
theorem loadsReadBigEndianValues : Obligations.LoadsReadBigEndianValues := by
  intro s rt rs imm i n signed hi ea
  have run : exec i s = commit (some rt) (.done { memop := some (.load ea n signed) }) s := by
    rcases hi with ⟨rfl, rfl, rfl⟩ | ⟨rfl, rfl, rfl⟩ | ⟨rfl, rfl, rfl⟩ | ⟨rfl, rfl, rfl⟩ | ⟨rfl, rfl, rfl⟩ <;> rfl
  refine ⟨fun mis => exec_load_trap run (memRead_misaligned mis) rfl, fun ha hr => exec_load_trap run (memRead_unmapped ha hr) rfl,
    fun ha hram hd => ?_, fun r device ha hr hb hg => ?_⟩
  · obtain ⟨t, next, gpr, hiLo, cp0, data, machine, pc, draws⟩ := exec_load_ram run ha hram hd
    refine ⟨t, _, next, gpr, hiLo, cp0, data, machine, pc, draws, ?_⟩
    cases signed with
    | true => exact toInt_extendLoad_signed n _
    | false => exact extendLoad_unsigned_dataValue s ea n
  · obtain ⟨t, next, gpr, hiLo, cp0, memory, machine, pc, draws⟩ := exec_load_peripheral run ha hg hr hb
    refine ⟨t, _, next, gpr, hiLo, cp0, memory, machine, pc, draws, ?_⟩
    rw [← Range.offset, ← State.toNat_periphRead]
    cases signed with
    | true => exact toInt_extendLoad_signed n _
    | false =>
      refine (toNat_extendLoad_unsigned n _).trans (Nat.mod_eq_of_lt ?_)
      rw [State.toNat_periphRead]
      exact Nat.mod_lt _ (Nat.two_pow_pos _)

/-- Settles O33: a store is a commit on the state that its write leaves, which in RAM is one store to the data side. -/
theorem storesChangeOnlyTheirBytes : Obligations.StoresChangeOnlyTheirBytes := by
  intro s rt rs imm i n hi ea
  have run : exec i s = commit none (.done { memop := some (.store ea n (storeValue n (s.x rt))) }) s := by
    rcases hi with ⟨rfl, rfl⟩ | ⟨rfl, rfl⟩ | ⟨rfl, rfl⟩ <;> rfl
  refine ⟨fun mis => exec_store_trap run (memWrite_misaligned mis _) rfl, fun ha hr => exec_store_trap run (memWrite_unmapped ha hr _) rfl,
    fun ha hram hd => ?_, fun ha hp hg => exec_store_peripheral run ha hg hp⟩
  obtain ⟨t, next, gpr, hiLo, cp0, machine, pc, draws, iCache, stores⟩ := exec_store_ram run ha hram hd
  refine ⟨t, next, gpr, hiLo, cp0, machine, pc, draws, iCache, fun b hb => ?_, fun b hb => (stores b).trans (if_neg hb)⟩
  exact ((stores b).trans (if_pos hb)).trans (storedByte_storeValue _ ea b n hb)

/-- Settles O57: the store leaves each byte of the word where the data side sees it, and a load of RAM reads what the data side sees. -/
theorem loadAfterStoreReturnsTheBytes : Obligations.LoadAfterStoreReturnsTheBytes := by
  intro s s' a v hd hram hm
  have aligned := memWrite_ok_aligned hm
  have ha := (alignedTo_iff a .word).2 aligned
  obtain ⟨stores, hd'⟩ := memWrite_stores hd hram hm
  have hram' : s'.inRam a := by
    obtain ⟨k, m, rfl⟩ := State.memWrite_ok hm
    exact hram
  refine ⟨?_, fun k hk => ?_⟩
  · rw [← stores.dataValue_word ha]
    exact memRead_eq_dataValue hd' aligned hram'
  · have inRam := hram'.same_word hd'.config (touched_word ha (touches_add ha hk))
    obtain ⟨s'', read⟩ := memRead_eq_dataValue hd' (n := .byte) (Nat.mod_one _) inRam
    refine ⟨s'', read.trans ?_⟩
    rw [State.dataValue, stores.dataByte_add ha hk, byteOfWord]

end Sys2Proof.Machine

/-! PROOFS of the statements of 43_control_flow.md: when the branches and jumps transfer, and where to (R251 to R264), the link (R250), and the
refusal in the delay slot of a taken one (R266). -/

namespace Sys2Proof.Machine

/-! The delay slot of a taken transfer (R266). -/

theorem isControl_iff (i : Instr) : isControl i = true ↔ TransfersControl i := by
  cases i <;> simp [isControl, TransfersControl]

theorem commitControl_in_slot {s : State} (ds : s.cfg.delaySlot = true) {p : Word} (waits : s.pendingTarget = some p) (dest : Option Reg)
    (o : OpOut) : commitControl dest o s = .refused .controlInDelaySlot := by
  simp [commitControl, ds, waits]

theorem commitControl_outside_slot {s : State} (outside : s.cfg.delaySlot = true → s.pendingTarget = none) (dest : Option Reg) (o : OpOut) :
    commitControl dest o s = commit dest o s :=
  if_neg fun slot => by
    rw [Bool.and_eq_true] at slot
    simp [outside slot.1] at slot

/-! Targets (R250, R251). -/

theorem branchTarget_eq_ofInt (pc : Word) (imm : Imm) : branchTarget pc imm = BitVec.ofInt 32 ((pc.toNat : Int) + 4 + 4 * imm.toInt) := by
  have low := imm.le_toInt
  have high := imm.toInt_lt
  have next : BitVec.ofInt 32 ((pc.toNat : Int) + 4) = pc + 4#32 := by simp [BitVec.ofInt_add]
  rw [branchTarget_eq_iff, BitVec.ofInt_add, next, BitVec.add_comm, BitVec.add_sub_cancel]
  exact BitVec.toInt_ofInt_eq_self (by decide) (by omega) (by omega)

theorem jumpTarget_eq_ofNat (pc : Word) (index : Index) :
    jumpTarget pc index = BitVec.ofNat 32 ((pc + 4#32).toNat / 2 ^ 28 * 2 ^ 28 + index.toNat * 4) := by
  rw [jumpTarget]
  generalize pc + 4#32 = next
  have region := next.isLt
  have within := index.isLt
  apply BitVec.eq_of_toNat_eq
  rw [BitVec.toNat_append, BitVec.toNat_append, ← Nat.shiftLeft_add_eq_or_of_lt within]
  simp only [BitVec.extractLsb'_toNat, BitVec.toNat_ofNat, Nat.shiftLeft_eq, Nat.shiftRight_eq_div_pow, Nat.zero_mod, Nat.or_zero]
  omega

/-! A transfer outside such a slot (R303): with a link or without, it is one commit. -/

section
variable {i : Instr} {s : State} (outside : s.cfg.delaySlot = true → s.pendingTarget = none)
include outside

theorem exec_branches {c : Bool} {target : Word} (run : exec i s = commitControl none (branches c target) s) :
    ∃ t, exec i s = .next t ∧ WritesRegister none 0#32 (if c then some target else none) s t := by
  rw [run, commitControl_outside_slot outside]
  exact commit_target _ s

theorem exec_branchesAndLinks {dest : Reg} {c : Bool} {target : Word}
    (run : exec i s = commitControl (some dest) (branchesAndLinks s.cfg.delaySlot s.pc c target) s) :
    ∃ t, exec i s = .next t ∧ WritesRegister (some dest) (linkValue s.cfg.delaySlot s.pc) (if c then some target else none) s t := by
  rw [run, commitControl_outside_slot outside]
  exact commit_result (some dest) _ _ s

/-- R263: a register jump to a misaligned target, before anything is written. -/
theorem exec_unalignedJump {dest : Option Reg} {target : Word}
    (run : exec i s = commitControl dest (.trap .unalignedJump (some target)) s) :
    ∃ t, exec i s = .next t ∧ Traps .unalignedJump 4#5 (some target) s t := by
  rw [run, commitControl_outside_slot outside]
  exact commit_trap dest .unalignedJump (some target) s rfl

/-- R265: a branch without a link, by its condition. -/
theorem exec_branch_on {cond : Prop} [Decidable cond] {imm : Imm}
    (run : exec i s = commitControl none (branches (decide cond) (branchTarget s.pc imm)) s) :
    (cond → ∃ t, exec i s = .next t ∧
      WritesRegister none 0#32 (some (BitVec.ofInt 32 ((s.pc.toNat : Int) + 4 + 4 * imm.toInt))) s t) ∧
    (¬ cond → ∃ t, exec i s = .next t ∧ WritesRegister none 0#32 none s t) := by
  have branch := exec_branches outside run
  rw [branchTarget_eq_ofInt] at branch
  constructor
  · intro taken
    simpa [taken] using branch
  · intro notTaken
    simpa [notTaken] using branch

end

/-! The statements. -/

/-- Settles O34: each is one branch on its own condition. -/
theorem conditionalBranchesTransferOnTheirCondition : Obligations.ConditionalBranchesTransferOnTheirCondition := by
  rintro s i imm cond outside (⟨rs, rt, rfl, rfl⟩ | ⟨rs, rt, rfl, rfl⟩ | ⟨rs, rfl, rfl⟩ | ⟨rs, rfl, rfl⟩ | ⟨rs, rfl, rfl⟩ | ⟨rs, rfl, rfl⟩) <;>
    exact exec_branch_on outside rfl

/-- Settles O35: the block of each takes `rs` as it was, and links whether or not it transfers. -/
theorem linkingTransfersWriteTheLink : Obligations.LinkingTransfersWriteTheLink := by
  intro s rs imm index outside link branch jump
  have bltzal := exec_branchesAndLinks outside (i := .bltzal rs imm) rfl
  have bgezal := exec_branchesAndLinks outside (i := .bgezal rs imm) rfl
  have j := exec_branches outside (i := .j index) rfl
  have jal := exec_branchesAndLinks outside (i := .jal index) rfl
  rw [branchTarget_eq_ofInt] at bltzal bgezal
  rw [jumpTarget_eq_ofNat] at j jal
  refine ⟨fun negative => ?_, fun notNegative => ?_, j, jal⟩
  · rw [if_pos (decide_eq_true negative)] at bltzal
    rw [if_neg (by simpa using negative)] at bgezal
    exact ⟨bltzal, bgezal⟩
  · rw [if_neg (by simpa using notNegative)] at bltzal
    rw [if_pos (decide_eq_true notNegative)] at bgezal
    exact ⟨bltzal, bgezal⟩

/-- Settles O36: the check of the target decides between the jump and the trap. -/
theorem registerJumpsCheckTheirTarget : Obligations.RegisterJumpsCheckTheirTarget := by
  intro s rd rs outside link
  have jr : exec (.jr rs) s = commitControl none (opJr (s.x rs)) s := rfl
  have jalr : exec (.jalr rd rs) s = commitControl (some rd) (opJalr s.cfg.delaySlot (s.x rs) s.pc) s := rfl
  constructor
  · intro aligned
    have check := (targetAligned_iff (s.x rs)).2 aligned
    rw [opJr, if_pos check] at jr
    rw [opJalr, if_pos check] at jalr
    exact ⟨exec_branches outside jr, exec_branchesAndLinks outside jalr⟩
  · intro misaligned
    have check := mt (targetAligned_iff (s.x rs)).1 misaligned
    rw [opJr, if_neg check] at jr
    rw [opJalr, if_neg check] at jalr
    exact ⟨exec_unalignedJump outside jr, exec_unalignedJump outside jalr⟩

/-- Settles O37: no operation block gives this refusal, so only the commit of a control transfer does. -/
theorem controlTransferInDelaySlotIsRefused : Obligations.ControlTransferInDelaySlotIsRefused := by
  intro s i
  rw [← isControl_iff]
  constructor
  · intro refused
    rcases exec_cases i s with ⟨control, ds, waits, _⟩ | committed
    · exact ⟨control, ds, Option.isSome_iff_exists.1 waits⟩
    · rw [committed] at refused
      obtain ⟨_, _, _, noControl⟩ := operate_refuse (commit_refused refused)
      cases noControl
  · rintro ⟨control, ds, p, waits⟩
    rw [exec_eq, if_pos control]
    exact commitControl_in_slot ds waits _ _

end Sys2Proof.Machine

/-! PROOFS of the statements of 44_immediate.md: the word that LUI writes (R276). -/

namespace Sys2Proof.Machine

theorem toNat_immUpper (imm : Imm) : (immUpper imm).toNat = imm.toNat * 2 ^ 16 := by
  rw [immUpper, BitVec.toNat_append, Nat.shiftLeft_eq, BitVec.toNat_zero, Nat.or_zero]

/-- Settles O28: the block of LUI yields the immediate before 16 zero bits, and reads nothing of the state. -/
theorem loadUpperImmediate : Obligations.LoadUpperImmediate := by
  intro s rt imm
  exact exec_yields rfl (toNat_immUpper imm)

end Sys2Proof.Machine

/-! PROOFS of the statements of 45_system_cp0.md: SYSCALL and BREAK (R286, R287), and the moves from and to Coprocessor 0 (R288, R289). -/

namespace Sys2Proof.Machine

/-! Coprocessor 0. -/

/-- A block that writes a Coprocessor 0 register, and nothing else. -/
theorem commit_cp0 (c : Cp0Reg) (v : Word) (s : State) :
    ∃ t, commit none (.done { cp0 := some (c, v) }) s = .next t ∧ t.cp0 c = v ∧ (∀ d, d ≠ c → t.cp0 d = s.cp0 d) ∧
      GprWritten none 0#32 s t ∧ HiLoKept s t ∧ MemoryKept s t ∧ MachineKept s t ∧ PcMoved none s t ∧ t.draws = s.draws := by
  have cp0 (d) : (State.updatePc none (s.applySpecial { cp0 := some (c, v) })).cp0 d = if d = c then v else s.cp0 d := by
    rw [State.cp0_updatePc, State.cp0_applySpecial]
  refine ⟨_, rfl, (cp0 c).trans (if_pos rfl), fun d other => (cp0 d).trans (if_neg other), fun q => ?_, ⟨?_, ?_⟩, ?_, ?_, ?_, ?_⟩
  · rw [if_neg (by simp)]
    exact State.x_congr (by simp [State.setDest]) q
  · simp [State.setDest]
  · simp [State.setDest]
  · exact memoryKept_of_fields (by simp) (by simp) (by simp) (by simp)
  · simp [MachineKept]
  · exact pcMoved_of_updatePc none (by simp) (by simp) (by simp)
  · simp

section
variable (s : State) (rt : Reg) {rd : Reg} {sel : Sel}

/-- R288: MFC0 of a pair that names a register. -/
theorem exec_mfc0 {c : Cp0Reg} (names : cp0Of rd sel = some c) :
    ∃ t, exec (.mfc0 rt rd sel) s = .next t ∧ WritesRegister (some rt) (s.cp0 c) none s t := by
  have run : exec (.mfc0 rt rd sel) s = commit (some rt) (opMfc0 rd sel s) s := rfl
  rw [run, opMfc0, names]
  exact commit_result (some rt) (s.cp0 c) none s

/-- R289: MTC0 to a pair that names a register. -/
theorem exec_mtc0 {c : Cp0Reg} (names : cp0Of rd sel = some c) :
    ∃ t, exec (.mtc0 rt rd sel) s = .next t ∧ t.cp0 c = s.x rt ∧ (∀ d, d ≠ c → t.cp0 d = s.cp0 d) ∧ GprWritten none 0#32 s t ∧
      HiLoKept s t ∧ MemoryKept s t ∧ MachineKept s t ∧ PcMoved none s t ∧ t.draws = s.draws := by
  have run : exec (.mtc0 rt rd sel) s = commit none (opMtc0 rd sel (s.x rt)) s := rfl
  rw [run, opMtc0, names]
  exact commit_cp0 c (s.x rt) s

/-- R34: either move of a pair that names none. -/
theorem exec_cp0_refused (noRegister : cp0Of rd sel = none) :
    exec (.mfc0 rt rd sel) s = .refused (.cp0NotImplemented rd sel) ∧
    exec (.mtc0 rt rd sel) s = .refused (.cp0NotImplemented rd sel) := by
  have mfc0 : exec (.mfc0 rt rd sel) s = commit (some rt) (opMfc0 rd sel s) s := rfl
  have mtc0 : exec (.mtc0 rt rd sel) s = commit none (opMtc0 rd sel (s.x rt)) s := rfl
  rw [mfc0, mtc0, opMfc0, opMtc0, noRegister]
  exact ⟨rfl, rfl⟩

end

/-! The statements. -/

/-- Settles O38: the block of SYSCALL decides by register 2, and no block reads the code field. -/
theorem syscallHaltsOrTrapsAndBreakTraps : Obligations.SyscallHaltsOrTrapsAndBreakTraps := by
  intro s code
  have syscall : exec (.syscall code) s = commit none (opSyscall (s.x 2#5)) s := rfl
  refine ⟨fun ten => ?_, fun notTen => ?_, commit_trap none .brk none s rfl⟩
  · rw [syscall, opSyscall, haltService, if_pos ten]
    rfl
  · rw [syscall, opSyscall, haltService, if_neg notTen]
    exact commit_trap none .syscall none s rfl

/-- Settles O39: the pairs of `CP0_SET` are those that name a register, each its own. -/
theorem cp0MovesReachTheFourRegisters : Obligations.Cp0MovesReachTheFourRegisters := by
  intro s rt rd sel
  refine ⟨fun c pair => ?_, fun outside => exec_cp0_refused s rt ?_⟩
  · have names : cp0Of rd sel = some c := by
      rcases pair with ⟨rfl, rfl, rfl⟩ | ⟨rfl, rfl, rfl⟩ | ⟨rfl, rfl, rfl⟩ | ⟨rfl, rfl, rfl⟩ <;> rfl
    exact ⟨exec_mfc0 s rt names, exec_mtc0 s rt names⟩
  · refine Option.eq_none_iff_forall_ne_some.2 fun c names => outside ?_
    obtain ⟨noSel, pair⟩ := cp0Of_eq_some.1 names
    exact ⟨noSel, pair.imp And.left (Or.imp And.left (Or.imp And.left And.left))⟩

end Sys2Proof.Machine

/-! PROOFS of the statements of 60_exceptions.md: the codes of the trap kinds (R371), and the trap of an instruction on the single-cycle core
(R376). -/

namespace Sys2Proof.Machine

/-! Codes. -/

theorem trapCode_eq_some_iff (k : TrapKind) (code : BitVec 5) : trapCode k = some code ↔ CodeOf k code := by
  rcases k with ⟨_ | _⟩ | _ | ⟨_ | _⟩ | _ | _ | _ | _ | _ <;> simp [trapCode, CodeOf, eq_comm]

theorem trapCode_eq_none_iff (k : TrapKind) : trapCode k = none ↔ k = .unsupportedAlu := by
  rcases k with ⟨_ | _⟩ | _ | ⟨_ | _⟩ | _ | _ | _ | _ | _ <;> simp [trapCode]

theorem exists_codeOf {k : TrapKind} (h : k ≠ .unsupportedAlu) : ∃ code, CodeOf k code := by
  obtain ⟨code, assigned⟩ := Option.ne_none_iff_exists'.1 (mt (trapCode_eq_none_iff k).1 h)
  exact ⟨code, (trapCode_eq_some_iff k code).1 assigned⟩

theorem HasAddress.ne_unsupportedAlu {k : TrapKind} (h : HasAddress k) : k ≠ .unsupportedAlu := by
  rintro rfl
  simp [HasAddress] at h

/-- R217: no operation block raises `UnsupportedALU`. -/
theorem operate_trap_ne_unsupportedAlu {i : Instr} {a b pc : Word} {s : State} {k : TrapKind} {ad : Option Word}
    (h : operate i a b pc s = .trap k ad) : k ≠ .unsupportedAlu := by
  rintro rfl
  cases i
  case add | sub | addi | jr | jalr | syscall | div | divu =>
    simp only [operate, opAdd, opSub, opAddi, opJr, opJalr, opSyscall, opDiv, opDivu] at h
    split at h <;> cases h
  case mfc0 | mtc0 =>
    simp only [operate, opMfc0, opMtc0] at h
    split at h <;> cases h
  all_goals cases h

/-- R371: an operation block that traps has an address exactly where the kind has one. -/
theorem operate_trap_address {i : Instr} {a b pc : Word} {s : State} {k : TrapKind} {ad : Option Word} (h : operate i a b pc s = .trap k ad) :
    (∃ b, ad = some b) ↔ HasAddress k := by
  have shape := operate_shape i a b pc s
  rw [h] at shape
  cases shape with
  | trap _ _ address => exact address

/-! Trap entry. -/

/-- R376: trap entry is the trap of the single-cycle core. -/
theorem takeTrap_traps {k : TrapKind} {code : BitVec 5} (h : CodeOf k code) (a : Option Word) (s : State) :
    Traps k code a s (s.takeTrap s.pc k a) := by
  obtain ⟨t, next, traps⟩ := commit_trap none k a s ((trapCode_eq_some_iff k code).2 h)
  cases next
  exact traps

theorem takeTrap_run (pc : Word) (k : TrapKind) (a : Option Word) (s : State) : (s.takeTrap pc k a).run = .trapped k :=
  have ⟨_, _, _, _, _, run⟩ := State.takeTrap_fields s pc k a
  run

/-- R301: a commit that traps a running machine takes the trap of its block or that of its data access, and does nothing else. -/
theorem commit_trapped {dest : Option Reg} {o : OpOut} {s t : State} {k : TrapKind} (hr : s.run = .running)
    (h : commit dest o s = .next t) (ht : t.run = .trapped k) :
    ∃ a, t = s.takeTrap s.pc k a ∧ (o = .trap k a ∨ (HasAddress k ∧ ∃ bad, a = some bad)) := by
  rcases commit_cases dest o s with ⟨_, a, ho, e⟩ | ⟨_, e⟩ | ⟨_, _, e⟩ | ⟨_, _, _, e⟩ |
      ⟨_, _, _, _, _, _, ⟨_, bad, hm, e⟩ | ⟨_, m, hm, e⟩⟩ | ⟨_, _, _, _, _, _, ⟨_, bad, hm, e⟩ | ⟨m, hm, e⟩⟩ <;>
    rw [e] at h <;> cases h
  · rw [takeTrap_run] at ht
    cases ht
    exact ⟨a, rfl, .inl ho⟩
  · cases ht
  · simp [hr] at ht
  · rw [takeTrap_run] at ht
    cases ht
    exact ⟨some bad, rfl, .inr ⟨memRead_trap hm, bad, rfl⟩⟩
  · obtain ⟨_, _, _, rfl⟩ := State.memRead_ok hm
    simp [hr] at ht
  · rw [takeTrap_run] at ht
    cases ht
    exact ⟨some bad, rfl, .inr ⟨memWrite_trap hm, bad, rfl⟩⟩
  · obtain ⟨_, _, rfl⟩ := State.memWrite_ok hm
    simp [hr] at ht

/-! The statements. -/

/-- Settles O19: the function that gives the codes is the table of R371. -/
theorem trapCodesAreAssigned : Obligations.TrapCodesAreAssigned :=
  ⟨trapCode_eq_some_iff, trapCode_eq_none_iff, withExcCode_fields⟩

/-- Settles O20: the trap is that of a block or of a data access, each with a code and with an address where its kind has one, and trap entry
changes nothing else. -/
theorem trapChangesNothingElse : Obligations.TrapChangesNothingElse := by
  intro i s t k hr h ht
  rcases exec_cases i s with ⟨_, _, _, e⟩ | e <;> rw [e] at h
  · cases h
  obtain ⟨a, rfl, block | ⟨hasAddress, bad, rfl⟩⟩ := commit_trapped hr h ht
  · obtain ⟨code, assigned⟩ := exists_codeOf (operate_trap_ne_unsupportedAlu block)
    exact ⟨code, a, assigned, operate_trap_address block, takeTrap_traps assigned a s⟩
  · obtain ⟨code, assigned⟩ := exists_codeOf hasAddress.ne_unsupportedAlu
    exact ⟨code, _, assigned, address_iff hasAddress bad, takeTrap_traps assigned _ s⟩

end Sys2Proof.Machine

/-! PROOFS of the statements of 51_core_pipelined.md: what the stages do in a cycle that goes on (R328 to R342) and in one that stops (R348),
from the state before the cycle. -/

namespace Sys2Proof.Machine

/-! Operation blocks, as EX uses them. -/

/-- R266: only a control transfer has a target. -/
theorem operate_target_none {i : Instr} {a b pc : Word} {s : State} {e : Effects} (h : isControl i = false)
    (done : operate i a b pc s = .done e) : e.target = none := by
  cases i
  case add | sub | addi | syscall | div | divu =>
    simp only [operate, opAdd, opSub, opAddi, opSyscall, opDiv, opDivu] at done
    split at done <;> cases done <;> rfl
  case mfc0 | mtc0 =>
    simp only [operate, opMfc0, opMtc0] at done
    split at done <;> cases done
    rfl
  case brk => cases done
  case jr | jalr | bltz | bgez | bltzal | bgezal | j | jal | beq | bne | blez | bgtz => cases h
  all_goals cases done; rfl

/-- R251, R263: a target depends on the instruction, its address and its operands alone. -/
theorem operate_target_congr {i : Instr} {a b pc : Word} {s s' : State} {e e' : Effects} (h : operate i a b pc s = .done e)
    (h' : operate i a b pc s' = .done e') : e.target = e'.target := by
  cases i
  case jr | bltz | bgez | j | beq | bne | blez | bgtz => cases h.symm.trans h'; rfl
  case bltzal | bgezal | jal => cases h; cases h'; rfl
  case jalr =>
    simp only [operate, opJalr] at h h'
    split at h
    next aligned =>
      rw [if_pos aligned] at h'
      cases h
      cases h'
      rfl
    next => cases h
  all_goals exact (operate_target_none rfl h).trans (operate_target_none rfl h').symm

/-- R286: SYSCALL with 10 in register 2 is the one block that halts. -/
theorem operate_halt {i : Instr} {a b pc : Word} {s : State} (h : operate i a b pc s = .halt) : ∃ code, i = .syscall code ∧ a = 10#32 := by
  cases i
  case syscall code =>
    simp only [operate, opSyscall] at h
    split at h
    next ten => exact ⟨code, rfl, ten⟩
    next => cases h
  case add | sub | addi | jr | jalr | div | divu =>
    simp only [operate, opAdd, opSub, opAddi, opJr, opJalr, opDiv, opDivu] at h
    split at h <;> cases h
  case mfc0 | mtc0 =>
    simp only [operate, opMfc0, opMtc0] at h
    split at h <;> cases h
  all_goals cases h

/-- R330: of the configuration a block reads the delay-slot setting alone. -/
theorem operate_congr_delaySlot {i : Instr} {s t : State} (a b pc : Word) (delaySlot : t.cfg.delaySlot = s.cfg.delaySlot) (hi : t.hi = s.hi)
    (lo : t.lo = s.lo) (draws : t.draws = s.draws) (cp0 : ∀ c, t.cp0 c = s.cp0 c) : operate i a b pc t = operate i a b pc s := by
  have sameSetting : operate i a b pc { t with cfg := s.cfg } = operate i a b pc t := by
    cases i
    case jalr | bltzal | bgezal | jal => simp only [operate, delaySlot]
    all_goals rfl
  rw [← sameSetting]
  exact operate_congr a b pc rfl hi lo draws fun _ _ _ c _ _ => (State.cp0_congr (s := t) rfl rfl rfl rfl c).trans (cp0 c)

theorem isControl_of_isLoad {j : Instr} (h : isLoad j = true) : isControl j = false := by
  cases j
  case lb | lbu | lh | lhu | lw => rfl
  all_goals cases h

/-! The stages ID, IF and EX of a state. -/

theorem State.dataStall_congr {s t : State} (cfg : t.cfg = s.cfg) (idEx : t.idEx = s.idEx) (exMem : t.exMem = s.exMem) (i : Instr) :
    t.dataStall i = s.dataStall i := by
  simp only [State.dataStall, cfg, idEx, exMem]

theorem State.port_congr {s t : State} (h : t.gpr = s.gpr) (r : Option Reg) : t.port r = s.port r := by
  cases r with
  | none => rfl
  | some r => exact State.x_congr h r

/-- R333: what ID reads. -/
theorem idStage_congr {s t : State} (cfg : t.cfg = s.cfg) (ifId : t.ifId = s.ifId) (idEx : t.idEx = s.idEx) (exMem : t.exMem = s.exMem)
    (gpr : t.gpr = s.gpr) : idStage t = idStage s := by
  simp only [idStage, ifId, State.dataStall_congr cfg idEx exMem, State.port_congr gpr]

theorem idStage_bubble {s : State} (h : s.ifId = .bubble) : idStage s = { next := .bubble, stall := false } := by
  simp only [idStage, h]

section
variable {s : State} {d : IfIdSlot} (h : s.ifId = .slot d)
include h

theorem idStage_busError (hp : d.payload = .busError) :
    idStage s = { next := .slot { pc := d.pc, payload := .fault (.busError .fetch) }, stall := false } := by
  simp only [idStage, h, hp]

theorem idStage_unknown {w : Word} (hp : d.payload = .word w) (hd : decode w = none) :
    idStage s = { next := .slot { pc := d.pc, payload := .fault .unsupportedInstruction }, stall := false } := by
  simp only [idStage, h, hp, hd]

theorem idStage_held {w : Word} {i : Instr} (hp : d.payload = .word w) (hd : decode w = some i) (stalls : s.dataStall i = true) :
    idStage s = { next := .bubble, stall := true } := by
  simp only [idStage, h, hp, hd, stalls, if_true]

theorem idStage_decoded {w : Word} {i : Instr} (hp : d.payload = .word w) (hd : decode w = some i) (free : s.dataStall i = false) :
    idStage s = { next := .slot { pc := d.pc, payload := .inst i (s.port (portA i)) (s.port (portB i)) }, stall := false } := by
  simp only [idStage, h, hp, hd, free, Bool.false_eq_true, if_false]

/-- R333: ID holds the slot in IF/ID or hands it on. -/
theorem idStage_cases :
    idStage s = { next := .bubble, stall := true } ∨ ∃ p, idStage s = { next := .slot { pc := d.pc, payload := p }, stall := false } := by
  cases hp : d.payload with
  | busError => exact .inr ⟨_, idStage_busError h hp⟩
  | word w =>
    cases hd : decode w with
    | none => exact .inr ⟨_, idStage_unknown h hp hd⟩
    | some i =>
      cases stalls : s.dataStall i with
      | true => exact .inl (idStage_held h hp hd stalls)
      | false => exact .inr ⟨_, idStage_decoded h hp hd stalls⟩

end

/-- R326: a register of a port, other than 0, is a source. -/
theorem feeds_of_port {i : Instr} {r : Reg} (hr : r ≠ 0#5) (port : portA i = some r ∨ portB i = some r) : feeds (some r) i = true := by
  rcases port with port | port <;> simp [feeds, srcs, nonzero, port, hr]

/-- R337: a fetch that draws nothing reads the instruction cache and the configuration alone. -/
theorem fetchWord_congr {s s' t : State} {m : Memory} {a w : Word} (h : s.fetchWord m a = .ok w s') (still : s'.draws = s.draws)
    (cfg : t.cfg = s.cfg) (iCache : t.iCache = s.iCache) : t.fetchWord m a = .ok w { t with iCache := s'.iCache } := by
  have same : { t with iCache := s.iCache } = t := by rw [← iCache]
  rcases State.fetchWord_cases s m a with ⟨_, e⟩ | ⟨r, hr, ⟨he, hu, e⟩ | ⟨hc, hb, e⟩ | ⟨_, _, e⟩⟩ <;> rw [e] at h <;> cases h
  · simp [State.fetchWord, cfg, hr, he, hu, iCache]
  · have past : (s.cfg.iCache.enabled && !r.uncached) = false := by rcases hc with hc | hc <;> simp [hc]
    rw [same]
    simp [State.fetchWord, State.backendRead, cfg, hr, past, hb, Memory.read]
  · simp at still

/-- What EX does with the outcome of the block of the instruction `i` at `pc` (R330 steps 5 and 6). -/
def exOutcome (pc : Word) (i : Instr) (s : State) : OpOut → ExStage
  | .trap k a => .trap pc k a
  | .halt => .halt pc
  | .refuse r => .refuse r
  | .done e => exDone pc i e s

section
variable {s : State} {q : IdExSlot} (hq : s.idEx = .slot q)
include hq

theorem exStage_haltAddr (halts : s.cfg.haltAddr = some q.pc) : exStage s = .halt q.pc := by
  simp only [exStage, hq, halts, if_true]

variable (goes : s.cfg.haltAddr ≠ some q.pc)
include goes

theorem exStage_fault {k : TrapKind} (hp : q.payload = .fault k) : exStage s = .trap q.pc k (carriedAddr k q.pc) := by
  simp only [exStage, hq, if_neg goes, hp]

variable {i : Instr} {a b : Word} (hp : q.payload = .inst i a b)
include hp

theorem exStage_refused_in_slot (inSlot : s.exDelaySlot = true) (control : TransfersControl i) : exStage s = .refuse .controlInDelaySlot := by
  simp only [exStage, hq, if_neg goes, hp, exInstr, inSlot, (isControl_iff i).2 control, Bool.and_self, if_true]

theorem exStage_inst (outside : s.exDelaySlot = true → ¬ TransfersControl i) :
    exStage s = exOutcome q.pc i s (operate i (s.fwd (portA i) a) (s.fwd (portB i) b) q.pc s) := by
  have allowed : (s.exDelaySlot && isControl i) = false := by
    rw [← isControl_iff, Bool.not_eq_true] at outside
    cases inSlot : s.exDelaySlot
    · rfl
    · exact outside inSlot
  simp only [exStage, hq, if_neg goes, hp, exInstr, allowed, Bool.false_eq_true, if_false]
  cases operate i (s.fwd (portA i) a) (s.fwd (portB i) b) q.pc s <;> rfl

end

/-! A cycle, from the state before it: WB and MEM leave `m`, EX begins in `exStart s m`. -/

theorem step_pipelined {s : State} (hr : s.run = .running) (hw : s.cfg.wellFormed = true) (hp : s.cfg.pipelined = true) :
    step s = stepPipelined s := by
  rw [step_running hr, if_pos hw, if_pos hp]

theorem stepPipelined_of_step {s t : State} (hr : s.run = .running) (hp : s.cfg.pipelined = true) (h : step s = .next t) :
    stepPipelined s = .next t := by
  rcases step_cases h with ⟨stopped, _⟩ | ⟨_, _, single, _⟩ | ⟨_, _, _, h⟩
  · exact (stopped hr).elim
  · rw [hp] at single
    cases single
  · exact h

theorem stepPipelined_memTrap {s : State} {pc bad : Word} {k : TrapKind} (hm : memStage s.writeBack = .trap pc k bad) :
    stepPipelined s = .next (s.beginCycle.writeBack.stageTrap [] pc k (some bad)) := by
  rcases memStage_beginCycle s with ⟨_, _, _, hm', begun⟩ | ⟨_, _, hm', _⟩ <;> rw [hm] at hm' <;> cases hm'
  simp only [stepPipelined, begun]

theorem stepPipelined_memOk {s m : State} {mw : Latch MemWbSlot} (hm : memStage s.writeBack = .ok mw m) :
    stepPipelined s = afterMem s.mem mw (afterMemory s m) := by
  rcases memStage_beginCycle s with ⟨_, _, _, hm', _⟩ | ⟨_, _, hm', begun⟩ <;> rw [hm] at hm' <;> cases hm'
  simp only [stepPipelined, begun]

/-- WB, MEM and EX leave, where they go on, what the front of the pipeline reads: `u` is the state after them. -/
structure BackKept (s m u : State) : Prop where
  cfg : u.cfg = s.cfg
  gpr : u.gpr = s.writeBack.gpr
  pc : u.pc = s.pc
  mem : u.mem = m.mem
  dCache : u.dCache = m.dCache
  iCache : u.iCache = s.iCache
  ifId : u.ifId = s.ifId
  idEx : u.idEx = s.idEx
  exMem : u.exMem = s.exMem
  pendingRedirect : u.pendingRedirect = s.pendingRedirect
  run : u.run = s.run

theorem exStart_kept {s m : State} {mw : Latch MemWbSlot} (hm : memStage s.writeBack = .ok mw m) : BackKept s m (exStart s m) := by
  obtain ⟨k, mem, d, rfl⟩ := memStage_ok hm
  constructor <;> simp [exStart, afterMemory, State.touch]

theorem exStart_exDelaySlot {s m : State} {mw : Latch MemWbSlot} (hm : memStage s.writeBack = .ok mw m) :
    (exStart s m).exDelaySlot = s.exDelaySlot := by
  obtain ⟨k, mem, d, rfl⟩ := memStage_ok hm
  simp [exStart, afterMemory, State.touch]

theorem exStage_kept {s m u : State} {mw : Latch MemWbSlot} {em : Latch ExMemSlot} {rd : Option Word} (hm : memStage s.writeBack = .ok mw m)
    (hx : exStage (exStart s m) = .ok em rd u) : BackKept s m u := by
  obtain ⟨cfg, gpr, pc, mem, dCache, iCache, ifId, idEx, exMem, pendingRedirect, run⟩ := exStart_kept hm
  rcases exStage_ok hx with ⟨_, _, _, rfl⟩ | ⟨_, _, _, _, _, _, _, _, _, _, _, _, rfl⟩
  · exact exStart_kept hm
  · constructor <;> simp [*]

/-- R334 to R337: IF fetches unless ID is held or MEM takes the port of memory. -/
def fetches (s : State) : Bool := !(idStage s.writeBack).stall && !s.structuralStall

/-- The state after a cycle in which EX goes on to `u`, with the notifications `later` of MEM and WB. -/
def cycleEnd (s u : State) (mw : Latch MemWbSlot) (em : Latch ExMemSlot) (rd : Option Word) (later : List Notification) : State :=
  (ifStage s.mem (fetches s) u).2.commitLatches
    (frontNext rd (idStage s.writeBack) (fetches s) (ifStage s.mem (fetches s) u).1 s) em mw later

theorem finishCycle_eq {s m u : State} (kept : BackKept s m u) (mw : Latch MemWbSlot) (em : Latch ExMemSlot) (rd : Option Word)
    (later : List Notification) :
    finishCycle s.mem mw em rd later u =
      if fetches s && s.pcMisaligned then .fault (.misalignedFetch s.pc) else .next (cycleEnd s u mw em rd later) := by
  have inId : idStage u = idStage s.writeBack :=
    idStage_congr (by simp [kept.cfg]) (by simp [kept.ifId]) (by simp [kept.idEx]) (by simp [kept.exMem]) kept.gpr
  have structural : u.structuralStall = s.structuralStall := by simp only [State.structuralStall, kept.cfg, kept.exMem]
  have misaligned : u.pcMisaligned = s.pcMisaligned := by simp only [State.pcMisaligned, kept.pc]
  have front (d f o) : frontNext rd d f o u = frontNext rd d f o s := by
    simp only [frontNext, redirectDelayed, advance, kept.cfg, kept.ifId, kept.pc, kept.pendingRedirect]
  simp only [finishCycle, inId, structural, misaligned, front, kept.pc]
  rfl

theorem stepPipelined_exOk {s m u : State} {mw : Latch MemWbSlot} {em : Latch ExMemSlot} {rd : Option Word}
    (hm : memStage s.writeBack = .ok mw m) (hx : exStage (exStart s m) = .ok em rd u) :
    stepPipelined s =
      if fetches s && s.pcMisaligned then .fault (.misalignedFetch s.pc)
      else .next (cycleEnd s u mw em rd (afterMemory s m).events) := by
  rw [stepPipelined_memOk hm, ← finishCycle_eq (exStage_kept hm hx)]
  unfold exStart at hx
  simp only [afterMem, hx]

/-- A cycle whose stages go on, at an aligned PC. -/
theorem step_of_stages {s m u : State} {mw : Latch MemWbSlot} {em : Latch ExMemSlot} {rd : Option Word} (hr : s.run = .running)
    (hw : s.cfg.wellFormed = true) (hp : s.cfg.pipelined = true) (hpc : s.pc.toNat % 4 = 0) (hm : memStage s.writeBack = .ok mw m)
    (hx : exStage (exStart s m) = .ok em rd u) : step s = .next (cycleEnd s u mw em rd (afterMemory s m).events) := by
  have aligned : s.pcMisaligned = false := by rw [State.pcMisaligned, (aligned4_iff s.pc).2 hpc]; rfl
  rw [step_pipelined hr hw hp, stepPipelined_exOk hm hx, aligned, Bool.and_false]
  rfl

/-- IF and the commit of the latches leave the registers, memory, the data cache, the status and the delay-slot mark. -/
structure CommitKept (u t : State) : Prop where
  cfg : t.cfg = u.cfg
  gpr : t.gpr = u.gpr
  hi : t.hi = u.hi
  lo : t.lo = u.lo
  cp0 : ∀ c, t.cp0 c = u.cp0 c
  mem : t.mem = u.mem
  dCache : t.dCache = u.dCache
  run : t.run = u.run
  exDelaySlot : t.exDelaySlot = u.exDelaySlot

theorem cycleEnd_kept (s u : State) (mw : Latch MemWbSlot) (em : Latch ExMemSlot) (rd : Option Word) (later : List Notification) :
    CommitKept u (cycleEnd s u mw em rd later) := by
  obtain ⟨k, d, fetched, e, _⟩ := ifStage_state s.mem (fetches s) u
  unfold cycleEnd
  rw [e]
  constructor
  case cp0 => exact State.cp0_congr rfl rfl rfl rfl
  all_goals rfl

/-- R332: an instruction without an access passes through MEM. -/
theorem memStage_pass {s m : State} {mw : Latch MemWbSlot} {e : ExMemSlot} (hm : memStage s.writeBack = .ok mw m) (he : s.exMem = .slot e)
    (noAccess : e.memop = none) : mw = .slot { pc := e.pc, instr := e.instr, value := e.result, dest := e.dest } := by
  simp only [memStage, State.writeBack_exMem, he, noAccess] at hm
  cases hm
  rfl

/-! EX, from the state before the cycle. -/

/-- R330 step 6: an instruction in EX that goes on, with what it leaves of HI, LO, Coprocessor 0 and the delay-slot mark. -/
theorem exStage_goesOn {s m : State} {mw : Latch MemWbSlot} {x : IdExSlot} {i : Instr} {a b : Word} {e : Effects}
    (hm : memStage s.writeBack = .ok mw m) (hx : s.idEx = .slot x) (goes : s.cfg.haltAddr ≠ some x.pc) (payload : x.payload = .inst i a b)
    (outside : s.exDelaySlot = true → ¬ TransfersControl i)
    (done : operate i (s.fwd (portA i) a) (s.fwd (portB i) b) x.pc m = .done e) :
    ∃ u, exStage (exStart s m) =
        .ok (.slot { pc := x.pc, instr := i, result := e.result, memop := e.memop, dest := destOf i }) e.target u ∧
      u.hi = e.hi.getD s.hi ∧ u.lo = e.lo.getD s.lo ∧ (∀ c, u.cp0 c = (s.applySpecial e).cp0 c) ∧
      u.exDelaySlot = (s.cfg.delaySlot && e.target.isSome) := by
  have kept := memStage_kept hm
  have started := exStart_kept hm
  have cp0 (c) : (exStart s m).cp0 c = s.cp0 c := (State.cp0_congr (s := m) rfl rfl rfl rfl c).trans (kept.cp0 c)
  have hi : (exStart s m).hi = s.hi := kept.hi
  have lo : (exStart s m).lo = s.lo := kept.lo
  have runs : exStage (exStart s m) = exDone x.pc i e (exStart s m) := by
    rw [exStage_inst (started.idEx.trans hx) (by rw [started.cfg]; exact goes) payload (by rw [exStart_exDelaySlot hm]; exact outside),
      operate_exStart kept, done]
    rfl
  refine ⟨_, runs, ?_, ?_, fun c => ?_, ?_⟩
  · exact (State.applySpecial_hi _ e).trans (by rw [hi])
  · exact (State.applySpecial_lo _ e).trans (by rw [lo])
  · refine (State.cp0_congr (s := (exStart s m).applySpecial e) rfl rfl rfl rfl c).trans ?_
    rw [State.cp0_applySpecial, State.cp0_applySpecial, cp0]
  · rw [started.cfg]

theorem exStage_halts {s m : State} {mw : Latch MemWbSlot} {pc : Word} (hm : memStage s.writeBack = .ok mw m)
    (hx : exStage (exStart s m) = .halt pc) : ∃ q, s.idEx = .slot q ∧ pc = q.pc ∧ HaltsInEx s q := by
  have started := exStart_kept hm
  rcases exStage_cases (exStart s m) with ⟨_, e⟩ | ⟨q, hq, ⟨halts, e⟩ | ⟨_, ⟨_, _, e⟩ |
      ⟨i, a, b, hp, ⟨_, _, e⟩ | ⟨_, ⟨_, _, _, e⟩ | ⟨ho, e⟩ | ⟨_, _, e⟩ | ⟨_, _, e⟩⟩⟩⟩⟩ <;> rw [e] at hx <;> cases hx <;>
    rw [started.idEx] at hq
  · exact ⟨q, hq, rfl, .inl (started.cfg ▸ halts)⟩
  · have fwd := fwd_congr started.cfg started.exMem (memStage_kept hm).memWb (portA i) a
    obtain ⟨code, rfl, ten⟩ := operate_halt ho
    exact ⟨q, hq, rfl, .inr ⟨code, a, b, hp, fwd ▸ ten⟩⟩

/-- A trap in EX, of a kind without a code only where the slot carries it. -/
theorem exStage_traps {s m : State} {mw : Latch MemWbSlot} {pc : Word} {k : TrapKind} {ad : Option Word} (hm : memStage s.writeBack = .ok mw m)
    (hx : exStage (exStart s m) = .trap pc k ad) :
    ∃ q, s.idEx = .slot q ∧ pc = q.pc ∧ TrapsInEx s m q k ad ∧ (k = .unsupportedAlu → q.payload = .fault .unsupportedAlu) := by
  have started := exStart_kept hm
  rcases exStage_cases (exStart s m) with ⟨_, e⟩ | ⟨q, hq, ⟨_, e⟩ | ⟨goes, ⟨_, hp, e⟩ |
      ⟨i, a, b, hp, ⟨_, _, e⟩ | ⟨_, ⟨_, _, ho, e⟩ | ⟨_, e⟩ | ⟨_, _, e⟩ | ⟨_, _, e⟩⟩⟩⟩⟩ <;> rw [e] at hx <;> cases hx <;>
    rw [started.idEx] at hq <;> rw [started.cfg] at goes
  · exact ⟨q, hq, rfl, ⟨goes, .inl ⟨hp, rfl⟩⟩, fun kind => kind ▸ hp⟩
  · rw [operate_exStart (memStage_kept hm)] at ho
    exact ⟨q, hq, rfl, ⟨goes, .inr ⟨i, a, b, hp, ho⟩⟩, fun kind => (operate_trap_ne_unsupportedAlu ho kind).elim⟩

/-! A cycle that stops (R348). -/

/-- R376, R371: trap entry on the pipelined core, from a state with the Coprocessor 0 registers of `s`. -/
theorem stageTrap_recorded {s x : State} (cp0 : ∀ c, x.cp0 c = s.cp0 c) (before : List Notification) (pc : Word) (k : TrapKind)
    (a : Option Word) :
    ∃ code, (CodeOf k code ∨ k = .unsupportedAlu) ∧ TrapRecorded pc k code a s (x.stageTrap before pc k a) := by
  obtain ⟨epc, cause, badVAddr, status, tpc, run⟩ := State.stageTrap_fields x before pc k a
  have bad : x.badVAddr = s.badVAddr := cp0 .badVAddr
  have oldCause : x.cause = s.cause := cp0 .cause
  rw [bad] at badVAddr
  rw [oldCause] at cause
  have recorded (code : BitVec 5) (h : (causeAfter k s.cause).extractLsb' 2 5 = code)
      (high : (causeAfter k s.cause).extractLsb' 7 25 = s.cause.extractLsb' 7 25)
      (low : (causeAfter k s.cause).extractLsb' 0 2 = s.cause.extractLsb' 0 2) :
      TrapRecorded pc k code a s (x.stageTrap before pc k a) :=
    ⟨epc, by rw [cause, h], by rw [cause, high], by rw [cause, low], badVAddr, status.trans (cp0 .status), tpc, run⟩
  cases hc : trapCode k with
  | none =>
    have same : causeAfter k s.cause = s.cause := by simp only [causeAfter, hc]
    exact ⟨_, .inr ((trapCode_eq_none_iff k).1 hc), recorded _ rfl (by rw [same]) (by rw [same])⟩
  | some code =>
    have written : causeAfter k s.cause = withExcCode s.cause code := by simp only [causeAfter, hc]
    obtain ⟨field, high, low⟩ := withExcCode_fields s.cause code
    rw [← written] at field high low
    exact ⟨code, .inl ((trapCode_eq_some_iff k code).1 hc), recorded code field high low⟩

/-- R348: what a stop in EX at `pc` leaves, where WB and MEM have led to `m` and MEM hands on `mw`. -/
structure StopsInEx (s m : State) (mw : Latch MemWbSlot) (pc : Word) (t : State) : Prop where
  pc : t.pc = pc
  hiLo : HiLoKept s t
  x : ∀ r, t.x r = (m.drain mw).x r
  mem : t.mem = m.mem
  dCache : t.dCache = m.dCache
  iCache : t.iCache = s.iCache

/-- The drain of what MEM hands on, before the stop is recorded. -/
theorem drain_stops {s m : State} {mw : Latch MemWbSlot} (hm : memStage s.writeBack = .ok mw m) (es : List Notification) :
    let x := { afterMemory s m with events := es }.drain mw
    HiLoKept s x ∧ (∀ c, x.cp0 c = s.cp0 c) ∧ (∀ r, x.x r = (m.drain mw).x r) ∧ x.mem = m.mem ∧ x.dCache = m.dCache ∧ x.iCache = s.iCache := by
  have kept := memStage_kept hm
  have started := exStart_kept hm
  obtain ⟨gpr, _, hi, lo, cp0⟩ := afterMemory_alike s m es
  refine ⟨⟨?_, ?_⟩, fun c => ?_, State.x_congr (drain_gpr_congr gpr mw), ?_, ?_, ?_⟩
  · rw [State.drain_hi]; exact hi.trans kept.hi
  · rw [State.drain_lo]; exact lo.trans kept.lo
  · exact (State.cp0_congr (by simp) (by simp) (by simp) (by simp) c).trans ((cp0 c).trans (kept.cp0 c))
  · rw [State.drain_mem]; exact started.mem
  · rw [State.drain_dCache]; exact started.dCache
  · rw [State.drain_iCache]; exact started.iCache

theorem stepPipelined_exRefused {s m : State} {mw : Latch MemWbSlot} {r : Refusal} (hm : memStage s.writeBack = .ok mw m)
    (hx : exStage (exStart s m) = .refuse r) : stepPipelined s = .refused r := by
  rw [stepPipelined_memOk hm]
  unfold exStart at hx
  simp only [afterMem, hx]

theorem stepPipelined_exHalt {s m : State} {mw : Latch MemWbSlot} {pc : Word} (hm : memStage s.writeBack = .ok mw m)
    (hx : exStage (exStart s m) = .halt pc) :
    ∃ t, stepPipelined s = .next t ∧ t.run = .halted ∧ Cp0Kept s t ∧ StopsInEx s m mw pc t := by
  obtain ⟨hiLo, cp0, x, mem, dCache, iCache⟩ :=
    drain_stops hm ((afterMemory s m).executeNotices ++ (afterMemory s m).events)
  rw [stepPipelined_memOk hm]
  unfold exStart at hx
  simp only [afterMem, hx]
  exact ⟨_, rfl, rfl, fun c => (State.cp0_congr rfl rfl rfl rfl c).trans (cp0 c), rfl, hiLo, x, mem, dCache, iCache⟩

theorem stepPipelined_exTrap {s m : State} {mw : Latch MemWbSlot} {pc : Word} {k : TrapKind} {a : Option Word}
    (hm : memStage s.writeBack = .ok mw m) (hx : exStage (exStart s m) = .trap pc k a) :
    ∃ t code, stepPipelined s = .next t ∧ (CodeOf k code ∨ k = .unsupportedAlu) ∧ TrapRecorded pc k code a s t ∧ StopsInEx s m mw pc t := by
  obtain ⟨⟨hi, lo⟩, cp0, x, mem, dCache, iCache⟩ := drain_stops hm (afterMemory s m).events
  obtain ⟨code, assigned, recorded⟩ := stageTrap_recorded cp0 (afterMemory s m).executeNotices pc k a
  obtain ⟨_, _, _, _, tpc, _⟩ := State.stageTrap_fields ((afterMemory s m).drain mw) (afterMemory s m).executeNotices pc k a
  rw [stepPipelined_memOk hm]
  unfold exStart at hx
  simp only [afterMem, hx]
  refine ⟨_, code, rfl, assigned, recorded, tpc, ⟨?_, ?_⟩, fun r => (State.x_congr ?_ r).trans (x r), ?_, ?_, ?_⟩
  · rw [State.stageTrap_hi]; exact hi
  · rw [State.stageTrap_lo]; exact lo
  · rw [State.stageTrap_gpr]
  · rw [State.stageTrap_mem]; exact mem
  · rw [State.stageTrap_dCache]; exact dCache
  · rw [State.stageTrap_iCache]; exact iCache

/-! The front of the pipeline (R340). -/

/-- A bubble that ID hands on stays one, whatever EX redirects. -/
theorem frontNext_bubble_idEx (rd : Option Word) (stall fetching : Bool) (offered : Latch IfIdSlot) (s : State) :
    (frontNext rd { next := .bubble, stall := stall } fetching offered s).idEx = .bubble := by
  unfold frontNext redirectDelayed advance
  split
  · split
    · split
      · rfl
      · split <;> rfl
    · rfl
  · split
    · rfl
    · split <;> rfl

section
variable {s : State} {t : Word} {d : IdStage} {fetching : Bool} {offered : Latch IfIdSlot}

theorem frontNext_direct (h : s.cfg.delaySlot = false) :
    frontNext (some t) d fetching offered s = { ifId := .bubble, idEx := .bubble, pc := t, pendingRedirect := s.pendingRedirect } := by
  simp only [frontNext, h, Bool.false_eq_true, if_false]

theorem frontNext_delayed (h : s.cfg.delaySlot = true) :
    frontNext (some t) d fetching offered s = redirectDelayed t d fetching offered s := by
  simp only [frontNext, h, if_true]

theorem redirectDelayed_slot {q : IfIdSlot} (h : s.ifId = .slot q) :
    redirectDelayed t d fetching offered s =
      { ifId := if d.stall then .slot q else .bubble, idEx := d.next, pc := t, pendingRedirect := s.pendingRedirect } := by
  simp only [redirectDelayed, h]

theorem redirectDelayed_empty (h : s.ifId = .bubble) :
    redirectDelayed t d fetching offered s =
      if fetching then { ifId := offered, idEx := d.next, pc := t, pendingRedirect := none }
      else { ifId := .bubble, idEx := d.next, pc := s.pc, pendingRedirect := some t } := by
  simp only [redirectDelayed, h]

end

/-! A cycle that goes on (R333 to R342). -/

/-- What a cycle that goes on from `s` to `t` does with the front of the pipeline: `rd` is the redirect that EX gives and `offered` the slot that
IF offers. -/
structure GoesOn (s t : State) (rd : Option Word) (offered : Latch IfIdSlot) : Prop where
  front : (⟨t.ifId, t.idEx, t.pc, t.pendingRedirect⟩ : Front) = frontNext rd (idStage s.writeBack) (fetches s) offered s
  offer : fetches s = true → ∃ p, offered = .slot { pc := s.pc, payload := p }
  unmapped : fetches s = true → rangeOf s.cfg s.pc = none → offered = .slot { pc := s.pc, payload := .busError }
  iCache : fetches s = false → t.iCache = s.iCache
  noTransfer : (∀ x j a b, s.idEx = .slot x → x.payload = .inst j a b → ¬ TransfersControl j) → rd = none
  redirect : ∀ {x j a b m e}, s.idEx = .slot x → x.payload = .inst j a b →
    operate j (s.fwd (portA j) a) (s.fwd (portB j) b) x.pc m = .done e →
    rd = e.target ∧ t.exDelaySlot = (s.cfg.delaySlot && e.target.isSome)

theorem ifStage_unmapped {s : State} (m : Memory) (h : rangeOf s.cfg s.pc = none) :
    (ifStage m true s).1 = .slot { pc := s.pc, payload := .busError } := by
  simp only [ifStage, if_true, State.fetchWord, h]

theorem ifStage_fetched {s s' : State} {m : Memory} {w : Word} (h : s.fetchWord m s.pc = .ok w s') :
    ifStage m true s = (.slot { pc := s.pc, payload := .word w }, { s' with events := .fetch s.pc w :: s'.events }) := by
  simp only [ifStage, if_true, h]

/-- R340, R341: the redirect of EX, from the state before the cycle. -/
theorem exStage_redirect {s m u : State} {mw : Latch MemWbSlot} {em : Latch ExMemSlot} {rd : Option Word}
    (hm : memStage s.writeBack = .ok mw m) (hx : exStage (exStart s m) = .ok em rd u) :
    (s.idEx = .bubble ∧ rd = none) ∨
    ∃ q i a b e, s.idEx = .slot q ∧ q.payload = .inst i a b ∧
      operate i (s.fwd (portA i) a) (s.fwd (portB i) b) q.pc m = .done e ∧ rd = e.target ∧
      u.exDelaySlot = (s.cfg.delaySlot && e.target.isSome) := by
  have started := exStart_kept hm
  rcases exStage_ok hx with ⟨empty, _, none, _⟩ | ⟨q, i, a, b, e, hq, hp, _, _, done, _, target, rfl⟩
  · exact .inl ⟨started.idEx ▸ empty, none⟩
  · rw [operate_exStart (memStage_kept hm)] at done
    exact .inr ⟨q, i, a, b, e, started.idEx ▸ hq, hp, done, target, by rw [started.cfg]⟩

theorem cycleEnd_goesOn {s m u : State} {mw : Latch MemWbSlot} {em : Latch ExMemSlot} {rd : Option Word}
    (hm : memStage s.writeBack = .ok mw m) (hx : exStage (exStart s m) = .ok em rd u) (later : List Notification) :
    GoesOn s (cycleEnd s u mw em rd later) rd (ifStage s.mem (fetches s) u).1 := by
  have kept := exStage_kept hm hx
  constructor
  case front => rfl
  case offer =>
    intro hf
    obtain ⟨_, p, slot⟩ := ifStage_offer s.mem u
    rw [hf, slot, kept.pc]
    exact ⟨p, rfl⟩
  case unmapped =>
    intro hf noRange
    rw [hf, ← kept.pc]
    exact ifStage_unmapped s.mem (by rw [kept.cfg, kept.pc]; exact noRange)
  case iCache =>
    intro hf
    unfold cycleEnd
    rw [hf]
    exact kept.iCache
  case noTransfer =>
    intro noControl
    rcases exStage_redirect hm hx with ⟨_, none⟩ | ⟨q, i, a, b, e, hq, hp, done, target, _⟩
    · exact none
    · have other : isControl i = false := by
        rw [← Bool.not_eq_true, isControl_iff]
        exact noControl q i a b hq hp
      exact target.trans (operate_target_none other done)
  case redirect =>
    intro x j a b m' e hx' hp' done'
    rcases exStage_redirect hm hx with ⟨empty, _⟩ | ⟨q, i, _, _, f, hq, hp, done, target, slot⟩
    · rw [empty] at hx'
      cases hx'
    · rw [hq] at hx'
      cases hx'
      rw [hp] at hp'
      cases hp'
      have same := operate_target_congr done done'
      exact ⟨target.trans same, (cycleEnd_kept ..).exDelaySlot.trans (same ▸ slot)⟩

theorem goesOn_of_step {s t : State} (hr : s.run = .running) (hp : s.cfg.pipelined = true) (h : step s = .next t) (ht : t.run = .running) :
    ∃ rd offered, GoesOn s t rd offered := by
  have next := stepPipelined_of_step hr hp h
  cases hm : memStage s.writeBack with
  | trap pc k a =>
    rw [stepPipelined_memTrap hm] at next
    cases next
    cases ht
  | ok mw m =>
    cases hx : exStage (exStart s m) with
    | ok em rd u =>
      rw [stepPipelined_exOk hm hx] at next
      split at next <;> cases next
      exact ⟨rd, _, cycleEnd_goesOn hm hx _⟩
    | halt pc =>
      obtain ⟨_, stopped, run, _⟩ := stepPipelined_exHalt hm hx
      rw [next] at stopped
      cases stopped
      rw [run] at ht
      cases ht
    | trap pc k a =>
      obtain ⟨_, _, stopped, _, ⟨_, _, _, _, _, _, _, run⟩, _⟩ := stepPipelined_exTrap hm hx
      rw [next] at stopped
      cases stopped
      rw [run] at ht
      cases ht
    | refuse r =>
      rw [stepPipelined_exRefused hm hx] at next
      cases next

section
variable {s t : State} {offered : Latch IfIdSlot} (on : GoesOn s t none offered)
include on

/-- R334, R335: a held slot stays in IF/ID. -/
theorem GoesOn.held {n : Latch IdExSlot} (inId : idStage s.writeBack = { next := n, stall := true }) :
    t.ifId = s.ifId ∧ t.idEx = n ∧ t.pc = s.pc ∧ t.pendingRedirect = s.pendingRedirect := by
  have front := on.front
  rw [inId] at front
  exact Front.mk.inj front

/-- R337, R340: what IF fetches enters IF/ID, and PC moves on. -/
theorem GoesOn.fetched {n : Latch IdExSlot} (inId : idStage s.writeBack = { next := n, stall := false }) (hf : fetches s = true) :
    t.ifId = offered ∧ t.idEx = n ∧ t.pc = s.pendingRedirect.getD (s.pc + 4#32) ∧ t.pendingRedirect = none := by
  have front := on.front
  rw [inId, hf] at front
  exact Front.mk.inj front

/-- R337: without a fetch PC waits, and a bubble enters IF/ID. -/
theorem GoesOn.without_fetch {n : Latch IdExSlot} (inId : idStage s.writeBack = { next := n, stall := false }) (hf : fetches s = false) :
    t.ifId = .bubble ∧ t.idEx = n ∧ t.pc = s.pc ∧ t.pendingRedirect = s.pendingRedirect := by
  have front := on.front
  rw [inId, hf] at front
  exact Front.mk.inj front

/-- R333: what ID hands on enters ID/EX, whether IF fetches or not. -/
theorem GoesOn.handed {n : Latch IdExSlot} (inId : idStage s.writeBack = { next := n, stall := false }) : t.idEx = n := by
  cases hf : fetches s with
  | true =>
    obtain ⟨_, idEx, _⟩ := on.fetched inId hf
    exact idEx
  | false =>
    obtain ⟨_, idEx, _⟩ := on.without_fetch inId hf
    exact idEx

end

theorem no_transfer_in_bubble {s : State} (idEx : s.idEx = .bubble) :
    ∀ x j a b, s.idEx = .slot x → x.payload = .inst j a b → ¬ TransfersControl j := by
  intro x j a b hx
  rw [idEx] at hx
  cases hx

theorem no_transfer_of_isControl {s : State} {x : IdExSlot} {j : Instr} {a b : Word} (idEx : s.idEx = .slot x)
    (payload : x.payload = .inst j a b) (other : isControl j = false) :
    ∀ x j a b, s.idEx = .slot x → x.payload = .inst j a b → ¬ TransfersControl j := by
  intro x' j' a' b' hx hp
  rw [idEx] at hx
  cases hx
  rw [payload] at hp
  cases hp
  rw [← isControl_iff, other]
  exact Bool.false_ne_true

/-! Stalls (R334 to R337) and write-back (R328). -/

/-- WB leaves what decides whether an instruction is held. -/
theorem State.dataStall_writeBack (s : State) (i : Instr) : s.writeBack.dataStall i = s.dataStall i :=
  State.dataStall_congr (by simp) (by simp) (by simp) i

/-- ID and IF are free where EX and MEM hold nothing. -/
theorem dataStall_of_empty {s : State} (idEx : s.idEx = .bubble) (exMem : s.exMem = .bubble) (i : Instr) : s.dataStall i = false := by
  cases hu : s.cfg.hazardUnit <;> simp [State.dataStall, hu, idEx, exMem, loadUse, idExFeeds, exMemFeeds]

theorem structuralStall_of_empty {s : State} (exMem : s.exMem = .bubble) : s.structuralStall = false := by
  simp [State.structuralStall, exMem, exMemAccesses]

/-- R337: a data access does not hold IF where a cache is enabled. -/
theorem structuralStall_eq_false {s : State}
    (port : s.cfg.iCache.enabled = true ∨ s.cfg.dCache.enabled = true ∨ ∀ e, s.exMem = .slot e → e.memop = none) :
    s.structuralStall = false := by
  rcases port with cached | cached | noAccess
  · simp [State.structuralStall, cached]
  · simp [State.structuralStall, cached]
  · cases he : s.exMem with
    | bubble => exact structuralStall_of_empty he
    | slot e => simp [State.structuralStall, exMemAccesses, he, noAccess e he]

/-- A cycle where EX and MEM hold nothing, at an aligned PC. -/
theorem step_of_empty {s : State} (hr : s.run = .running) (hw : s.cfg.wellFormed = true) (hp : s.cfg.pipelined = true)
    (hpc : s.pc.toNat % 4 = 0) (idEx : s.idEx = .bubble) (exMem : s.exMem = .bubble) :
    ∃ t, step s = .next t ∧ t.run = .running ∧ t.gpr = s.writeBack.gpr := by
  have hm : memStage s.writeBack = .ok .bubble s.writeBack := by simp only [memStage, State.writeBack_exMem, exMem]
  have started := exStart_kept hm
  have hx : exStage (exStart s s.writeBack) = .ok .bubble none (exStart s s.writeBack) := by
    simp only [exStage, started.idEx.trans idEx]
  have kept := cycleEnd_kept s (exStart s s.writeBack) .bubble .bubble none (afterMemory s s.writeBack).events
  exact ⟨_, step_of_stages hr hw hp hpc hm hx, kept.run.trans (started.run.trans hr), kept.gpr.trans started.gpr⟩

/-- R328: the register that WB writes. -/
theorem State.x_writeBack {s : State} {q : MemWbSlot} (h : s.memWb = .slot q) (r : Reg) :
    s.writeBack.x r = if q.dest = some r ∧ r ≠ 0#5 then q.value.getD (s.x r) else s.x r := by
  have written : s.writeBack = s.setDest q.dest q.value := by simp only [State.writeBack, h]
  rw [written, State.x_setDest]

/-! Forwarding (R331). -/

theorem exMemForward_eq_none {l : Latch ExMemSlot} {r : Reg} (h : ∀ p, l = .slot p → p.dest ≠ some r) : exMemForward l r = none := by
  cases l with
  | bubble => rfl
  | slot q => simp [exMemForward, h q rfl]

theorem memWbForward_eq_none {l : Latch MemWbSlot} {r : Reg} (h : ∀ p, l = .slot p → p.dest ≠ some r) : memWbForward l r = none := by
  cases l with
  | bubble => rfl
  | slot q => simp [memWbForward, h q rfl]

/-! The data side (R332). -/

/-- R67: a write that succeeds is a store to the data side, or, in a peripheral range, changes nothing. -/
theorem memWrite_dataByte {s s' : State} {a v : Word} {n : Width} (h : DataInv s) (hm : s.memWrite a v n = .ok s') :
    (∀ b, s'.dataByte b = s.dataByte b) ∨ Stores a v n s s' := by
  rcases State.memWrite_cases s a v n with ⟨_, e⟩ | ⟨_, _, e⟩ | ⟨r, ha, hr, ⟨he, hu, e⟩ | ⟨hc, _, e⟩ | ⟨_, _, e⟩⟩ <;> rw [e] at hm <;> cases hm
  · exact .inr (h.write he ha hr hu v).1
  · exact .inr (h.writeMemory ha hr hc v).1
  · exact .inl fun _ => rfl

/-- R332: MEM changes the bytes of its store alone. -/
theorem memStage_dataByte {s m : State} {mw : Latch MemWbSlot} (h : DataInv s) (hm : memStage s = .ok mw m) (a : Word) :
    m.dataByte a = s.dataByte a ∨
    ∃ e ea n v, s.exMem = .slot e ∧ e.memop = some (.store ea n v) ∧ touches ea n a ∧ m.dataByte a = storedByte v ea a n := by
  rcases memStage_cases s with ⟨_, e⟩ | ⟨q, hq, ⟨_, e⟩ | ⟨_, _, _, _, ⟨_, _, _, e⟩ | ⟨v, s', hr, e⟩⟩ |
      ⟨ea, n, v, hop, ⟨_, _, _, e⟩ | ⟨s', hw, e⟩⟩⟩ <;> rw [e] at hm <;> cases hm
  · exact .inl rfl
  · exact .inl rfl
  · exact .inl ((memRead_kept h hr).1 a)
  · rcases memWrite_dataByte h hw with same | stores
    · exact .inl (same a)
    · by_cases touched : touches ea n a
      · exact .inr ⟨q, ea, n, v, hq, hop, touched, (stores a).trans (if_pos touched)⟩
      · exact .inl ((stores a).trans (if_neg touched))

/-- R332, R348: memory and the data cache after a cycle are those that MEM leaves, or, where MEM stops, those before it. -/
theorem stepPipelined_dataByte {s t : State} (h : stepPipelined s = .next t) :
    (∀ a, t.dataByte a = s.dataByte a) ∨
    ∃ mw m, memStage s.beginCycle.writeBack = .ok mw m ∧ ∀ a, t.dataByte a = m.dataByte a := by
  rcases stepPipelined_cases h with ⟨_, _, _, _, rfl⟩ | ⟨mw, m, hm, ⟨_, _, rfl⟩ | ⟨_, _, _, _, rfl⟩ | ⟨em, rd, u, fetching, hx, _, _, rfl⟩⟩
  · exact .inl (State.dataByte_congr (by simp) (by simp) (by simp))
  · exact .inr ⟨mw, m, hm, State.dataByte_congr (by simp) (by simp) (by simp)⟩
  · exact .inr ⟨mw, m, hm, State.dataByte_congr (by simp) (by simp) (by simp)⟩
  · refine .inr ⟨mw, m, hm, ?_⟩
    obtain ⟨k, d, fetched, e, _⟩ := ifStage_state s.mem fetching u
    rw [e]
    rcases exStage_ok hx with ⟨_, _, _, rfl⟩ | ⟨_, _, _, _, _, _, _, _, _, _, _, _, rfl⟩
    · exact State.dataByte_congr rfl rfl rfl
    · refine State.dataByte_congr ?_ ?_ ?_ <;> simp [State.commitLatches]

/-! A stop in MEM (R332, R348). -/

theorem memRead_accessTraps {s : State} {a bad : Word} {n : Width} {k : TrapKind} (h : s.memRead a n = .trap k bad) :
    bad = a ∧ AccessTraps s.cfg a n .load k := by
  rcases State.memRead_cases s a n with ⟨ha, e⟩ | ⟨ha, hr, e⟩ | ⟨r, _, _, ⟨_, _, e⟩ | ⟨_, _, e⟩ | ⟨_, _, e⟩⟩ <;> rw [e] at h <;> cases h
  · exact ⟨rfl, .inl ⟨fun aligned => by simp [(alignedTo_iff a n).2 aligned] at ha, rfl⟩⟩
  · exact ⟨rfl, .inr ⟨(alignedTo_iff a n).1 ha, hr, rfl⟩⟩

theorem memWrite_accessTraps {s : State} {a v bad : Word} {n : Width} {k : TrapKind} (h : s.memWrite a v n = .trap k bad) :
    bad = a ∧ AccessTraps s.cfg a n .store k := by
  rcases State.memWrite_cases s a v n with ⟨ha, e⟩ | ⟨ha, hr, e⟩ | ⟨r, _, _, ⟨_, _, e⟩ | ⟨_, _, e⟩ | ⟨_, _, e⟩⟩ <;> rw [e] at h <;> cases h
  · exact ⟨rfl, .inl ⟨fun aligned => by simp [(alignedTo_iff a n).2 aligned] at ha, rfl⟩⟩
  · exact ⟨rfl, .inr ⟨(alignedTo_iff a n).1 ha, hr, rfl⟩⟩

theorem memStage_trapsInMem {s : State} {pc bad : Word} {k : TrapKind} (h : memStage s = .trap pc k bad) :
    ∃ q, s.exMem = .slot q ∧ pc = q.pc ∧ TrapsInMem s.cfg q k bad ∧ HasAddress k := by
  rcases memStage_cases s with ⟨_, e⟩ | ⟨q, hq, ⟨_, e⟩ | ⟨a, n, sg, hop, ⟨_, _, ht, e⟩ | ⟨_, _, _, e⟩⟩ |
      ⟨a, n, v, hop, ⟨_, _, ht, e⟩ | ⟨_, _, e⟩⟩⟩ <;> rw [e] at h <;> cases h
  · obtain ⟨rfl, traps⟩ := memRead_accessTraps ht
    exact ⟨q, hq, rfl, .inl ⟨n, sg, hop, traps⟩, memRead_trap ht⟩
  · obtain ⟨rfl, traps⟩ := memWrite_accessTraps ht
    exact ⟨q, hq, rfl, .inr ⟨n, v, hop, traps⟩, memWrite_trap ht⟩

/-! The statements. -/

/-- Settles O40: `exec` commits the block, and EX takes its outcome; a block reads of the configuration the delay-slot setting alone. -/
theorem bothCoresRunTheSameOperations : Obligations.BothCoresRunTheSameOperations := by
  refine ⟨fun i s => ⟨fun control => ?_, fun other => ?_⟩, fun i s p q a b hq hp goes => ⟨fun inSlot control => ?_, ?_⟩⟩
  · rw [exec_eq, if_pos ((isControl_iff i).2 control)]
  · rw [exec_eq, if_neg (mt (isControl_iff i).1 other)]
  · exact exStage_refused_in_slot hq goes hp inSlot control
  · intro outside pc hA hB delaySlot hi lo cp0 draws
    rw [exStage_inst hq goes hp outside, hA, hB, pc, operate_congr_delaySlot _ _ _ delaySlot hi lo draws cp0]
    cases operate i (s.port (portA i)) (s.port (portB i)) s.pc s with
    | done e => rw [← delaySlot]; rfl
    | trap | halt | refuse => rfl

/-- Settles O41: EX/MEM comes before MEM/WB, and a latch that does not write the register forwards nothing. -/
theorem forwardingTakesTheYoungerResult : Obligations.ForwardingTakesTheYoungerResult := by
  intro s r v
  refine ⟨fun forward hr => ?_, fun other => ?_, ?_, ?_⟩
  · have fwd : s.fwd (some r) v = forwardReg s.exMem s.memWb r v := by simp only [State.fwd, forward]
    refine ⟨fun q u hq dest load result => ?_, fun q u older hq dest value => ?_, fun older oldest => ?_⟩
    · simp [fwd, forwardReg, hr, exMemForward, hq, dest, load, result]
    · simp [fwd, forwardReg, hr, exMemForward_eq_none older, memWbForward, hq, dest, value]
    · simp [fwd, forwardReg, hr, exMemForward_eq_none older, memWbForward_eq_none oldest]
  · cases hu : s.cfg.hazardUnit
    case forward => exact (other hu).elim
    all_goals simp [State.fwd, hu]
  · cases hu : s.cfg.hazardUnit <;> simp [State.fwd, hu, forwardReg]
  · cases hu : s.cfg.hazardUnit <;> simp [State.fwd, hu]

/-- Settles O43: nothing holds the instruction, and ID reads its ports in the state that WB leaves. -/
theorem writeBackIsSeenByDecodeInTheSameCycle : Obligations.WriteBackIsSeenByDecodeInTheSameCycle := by
  intro s q d i r v w hr hw hp hpc hq dest value nonzero exMem idEx hd payload decodes
  obtain ⟨t, next, run, gpr⟩ := step_of_empty hr hw hp hpc idEx exMem
  obtain ⟨rd, offered, on⟩ := goesOn_of_step hr hp next run
  obtain rfl := on.noTransfer (no_transfer_in_bubble idEx)
  have free : s.writeBack.dataStall i = false := by rw [State.dataStall_writeBack]; exact dataStall_of_empty idEx exMem i
  have inId := idStage_decoded (s.writeBack_ifId.trans hd) payload decodes free
  have new : s.writeBack.x r = v := by rw [State.x_writeBack hq, if_pos ⟨dest, nonzero⟩, value]; rfl
  have old (q' : Reg) (other : q' ≠ r) : s.writeBack.x q' = s.x q' := by
    rw [State.x_writeBack hq, if_neg]
    rintro ⟨written, _⟩
    rw [dest] at written
    exact other (Option.some.inj written).symm
  refine ⟨t, _, _, next, (State.x_congr gpr r).trans new, fun q' other => (State.x_congr gpr q').trans (old q' other),
    on.handed inId, ?_, ?_, ?_, ?_⟩
  · intro port; rw [port]; exact new
  · intro port; rw [port]; exact new
  · intro q' port other; rw [port]; exact old q' other
  · intro q' port other; rw [port]; exact old q' other

/-- Settles O44: the load in ID/EX holds the instruction; in the next cycle ID/EX is empty and nothing does. -/
theorem loadUseInsertsOneBubble : Obligations.LoadUseInsertsOneBubble := by
  intro s t x d j i a b w r hr hp forward hx payload load dest nonzero hd word decodes port next run
  obtain ⟨rd, offered, on⟩ := goesOn_of_step hr hp next run
  have stalls : s.writeBack.dataStall i = true := by
    simp [State.dataStall, forward, loadUse, hx, payload, load, dest, feeds_of_port nonzero port]
  obtain rfl := on.noTransfer (no_transfer_of_isControl hx payload (isControl_of_isLoad load))
  obtain ⟨ifId, idEx, pc, _⟩ := on.held (idStage_held (s.writeBack_ifId.trans hd) word decodes stalls)
  refine ⟨idEx, ifId, pc, fun u next' run' => ?_⟩
  obtain ⟨cfg, _⟩ := stepsKeepTheConfiguration s t next
  obtain ⟨rd', offered', on'⟩ := goesOn_of_step run (cfg ▸ hp) next' run'
  obtain rfl := on'.noTransfer (no_transfer_in_bubble idEx)
  have free : t.writeBack.dataStall i = false := by
    simp [State.dataStall, cfg, forward, loadUse, idEx]
  exact ⟨_, _, on'.handed (idStage_decoded (t.writeBack_ifId.trans (ifId.trans hd)) word decodes free)⟩

/-- Settles O45: either producer holds the instruction, and a redirect leaves the bubble that ID hands on, or makes one. -/
theorem stallUnitHoldsTheConsumer : Obligations.StallUnitHoldsTheConsumer := by
  intro s t d i w r hr hp stall nonzero producer hd word decodes port next run
  obtain ⟨rd, offered, on⟩ := goesOn_of_step hr hp next run
  have feeds := feeds_of_port nonzero port
  have stalls : s.writeBack.dataStall i = true := by
    rcases producer with ⟨x, j, a, b, hx, payload, dest⟩ | ⟨e, he, dest⟩
    · simp [State.dataStall, stall, idExFeeds, hx, payload, dest, feeds]
    · simp [State.dataStall, stall, exMemFeeds, he, dest, feeds]
  have inId := idStage_held (s.writeBack_ifId.trans hd) word decodes stalls
  refine ⟨?_, fun noTransfer => ?_⟩
  · have front := congrArg Front.idEx on.front
    rw [inId, frontNext_bubble_idEx] at front
    exact front
  · obtain rfl := on.noTransfer noTransfer
    obtain ⟨ifId, _, pc, _⟩ := on.held inId
    exact ⟨ifId, pc⟩

/-- Settles O46: MEM has the port of memory, so IF offers nothing, and ID goes on as ever. -/
theorem dataAccessHoldsFetchWithoutCaches : Obligations.DataAccessHoldsFetchWithoutCaches := by
  intro s t e op hr hp iCacheOff dCacheOff he access next run
  obtain ⟨rd, offered, on⟩ := goesOn_of_step hr hp next run
  have structural : s.structuralStall = true := by simp [State.structuralStall, iCacheOff, dCacheOff, exMemAccesses, he, access]
  have noFetch : fetches s = false := by simp [fetches, structural]
  refine ⟨on.iCache noFetch, fun noTransfer => ?_, ?_⟩
  · obtain rfl := on.noTransfer noTransfer
    have waits : t.pc = s.pc ∧ t.pendingRedirect = s.pendingRedirect := by
      rcases hid : idStage s.writeBack with ⟨n, _ | _⟩
      · obtain ⟨_, _, pc, redirect⟩ := on.without_fetch hid noFetch
        exact ⟨pc, redirect⟩
      · obtain ⟨_, _, pc, redirect⟩ := on.held hid
        exact ⟨pc, redirect⟩
    refine ⟨waits.1, waits.2, fun empty => ?_, fun d w i hd word decodes => ⟨fun free => ?_, fun stalls => ?_⟩⟩
    · obtain ⟨ifId, idEx, _⟩ := on.without_fetch (idStage_bubble (s.writeBack_ifId.trans empty)) noFetch
      exact ⟨ifId, idEx⟩
    · rw [← State.dataStall_writeBack] at free
      obtain ⟨ifId, idEx, _⟩ := on.without_fetch (idStage_decoded (s.writeBack_ifId.trans hd) word decodes free) noFetch
      exact ⟨ifId, idEx⟩
    · rw [← State.dataStall_writeBack] at stalls
      obtain ⟨ifId, idEx, _⟩ := on.held (idStage_held (s.writeBack_ifId.trans hd) word decodes stalls)
      exact ⟨ifId, idEx⟩
  · intro x j a b m eff target hx payload done taken delaySlot empty
    obtain ⟨rfl, _⟩ := on.redirect hx payload done
    have front := on.front
    rw [taken, idStage_bubble (s.writeBack_ifId.trans empty), noFetch, frontNext_delayed delaySlot, redirectDelayed_empty empty] at front
    obtain ⟨ifId, idEx, pc, redirect⟩ := Front.mk.inj front
    exact ⟨pc, redirect, ifId, idEx⟩

/-- Settles O47: the redirect of EX is the target of the block, and without a delay slot nothing younger goes on. -/
theorem takenTransferFlushesTheYounger : Obligations.TakenTransferFlushesTheYounger := by
  intro s t x i a b target eff hr hp hx payload done taken next run
  obtain ⟨rd, offered, on⟩ := goesOn_of_step hr hp next run
  obtain ⟨rfl, mark⟩ := on.redirect hx payload done
  have front := on.front
  rw [taken] at front mark
  refine ⟨fun noSlot => ?_, fun delaySlot => ⟨by rw [mark, delaySlot]; rfl, fun d hd => ?_, fun empty => ?_⟩⟩
  · rw [frontNext_direct noSlot] at front
    obtain ⟨ifId, idEx, pc, _⟩ := Front.mk.inj front
    exact ⟨ifId, idEx, pc, by rw [mark, noSlot]; rfl⟩
  · rw [frontNext_delayed delaySlot, redirectDelayed_slot hd] at front
    rcases idStage_cases (s.writeBack_ifId.trans hd) with inId | ⟨p, inId⟩ <;> rw [inId] at front <;>
      obtain ⟨ifId, idEx, pc, _⟩ := Front.mk.inj front
    · exact ⟨pc, .inl ⟨idEx, ifId.trans hd.symm⟩⟩
    · exact ⟨pc, .inr ⟨ifId, p, idEx⟩⟩
  · rw [frontNext_delayed delaySlot, redirectDelayed_empty empty, idStage_bubble (s.writeBack_ifId.trans empty)] at front
    cases hf : fetches s <;> rw [hf] at front <;> obtain ⟨ifId, idEx, pc, redirect⟩ := Front.mk.inj front
    · exact ⟨idEx, .inr ⟨pc, redirect, ifId⟩⟩
    · obtain ⟨p, slot⟩ := on.offer hf
      exact ⟨idEx, .inl ⟨pc, redirect, p, ifId.trans slot⟩⟩

/-- Settles O48: WB moves no byte of memory, EX and IF none, and MEM those of its store. -/
theorem pipelineStoresInMemOnly : Obligations.PipelineStoresInMemOnly := by
  intro s t a inv hp h
  rcases step_cases h with ⟨_, rfl⟩ | ⟨_, _, single, _⟩ | ⟨_, _, _, next⟩
  · exact .inl rfl
  · rw [hp] at single
    cases single
  rcases stepPipelined_dataByte next with same | ⟨mw, m, hm, same⟩
  · exact .inl (same a)
  have written : s.beginCycle.writeBack.dataByte a = s.dataByte a := State.dataByte_congr (by simp) (by simp) (by simp) a
  have kept : CachesKept s s.beginCycle.writeBack := .of_fields (by simp) (by simp) (by simp) (by simp)
  rcases memStage_dataByte (kept inv).1 hm a with unchanged | ⟨e, ea, n, v, he, op, touched, stored⟩
  · exact .inl ((same a).trans (unchanged.trans written))
  · rw [State.writeBack_exMem, State.beginCycle_exMem] at he
    exact .inr ⟨e, ea, n, v, he, op, touched, (same a).trans stored⟩

/-- Settles O42: each stage goes on, and the latches take what the stages before them hand on. -/
theorem pipelineMovesEveryInstructionOneStage : Obligations.PipelineMovesEveryInstructionOneStage := by
  intro s m s' mw x d i j a b w u eff hr hw hp hpc hm port hx goes payload outside done noTarget hd word decodes free fetch still
  obtain ⟨v, hex, hi, lo, cp0, mark⟩ := exStage_goesOn hm hx goes payload outside done
  rw [noTarget] at hex mark
  have back := exStage_kept hm hex
  have kept := cycleEnd_kept s v mw (.slot ⟨x.pc, i, eff.result, eff.memop, destOf i⟩) none (afterMemory s m).events
  have inId := idStage_decoded (s.writeBack_ifId.trans hd) word decodes ((s.dataStall_writeBack j).trans free)
  have fetching : fetches s = true := by rw [fetches, inId, structuralStall_eq_false port]; rfl
  have iCache : m.iCache = s.iCache := (exStart_kept hm).iCache
  have fetched := fetchWord_congr fetch still (back.cfg.trans (memStage_kept hm).cfg.symm) (back.iCache.trans iCache.symm)
  rw [← back.pc] at fetched
  have offers := ifStage_fetched fetched
  obtain ⟨ifId, idEx, pc, redirect⟩ := (cycleEnd_goesOn hm hex (afterMemory s m).events).fetched inId fetching
  rw [fetching, offers, back.pc] at ifId
  refine ⟨_, step_of_stages hr hw hp hpc hm hex, State.x_congr (kept.gpr.trans back.gpr), kept.hi.trans hi, kept.lo.trans lo,
    fun c => ((kept.cp0 c).trans (cp0 c)).trans ?_, rfl, fun e he noAccess => memStage_pass hm he noAccess, rfl, idEx, ifId,
    pc.trans ?_, redirect, kept.exDelaySlot.trans ?_, kept.mem.trans back.mem, kept.dCache.trans back.dCache, ?_,
    kept.run.trans (back.run.trans hr)⟩
  · refine (State.cp0_applySpecial s eff c).trans ?_
    cases eff.cp0 <;> rfl
  · cases s.pendingRedirect <;> rfl
  · rw [mark]
    exact Bool.and_false _
  · unfold cycleEnd
    rw [fetching, offers]
    rfl

/-- Settles O21: the first of MEM and EX to stop decides, and the older slots have had their effects. -/
theorem pipelinedStopIsPrecise : Obligations.PipelinedStopIsPrecise := by
  intro s t hr hw hp h ht
  rw [step_pipelined hr hw hp] at h
  cases hm : memStage s.writeBack with
  | trap pc k bad =>
    rw [stepPipelined_memTrap hm] at h
    cases h
    obtain ⟨q, hq, rfl, traps, address⟩ := memStage_trapsInMem hm
    rw [State.writeBack_exMem] at hq
    rw [State.writeBack_cfg] at traps
    have cp0 (c) : s.beginCycle.writeBack.cp0 c = s.cp0 c := State.cp0_congr (by simp) (by simp) (by simp) (by simp) c
    obtain ⟨code, assigned, recorded⟩ := stageTrap_recorded cp0 [] q.pc k (some bad)
    refine .inl ⟨q, k, code, bad, hq, traps, assigned.resolve_right address.ne_unsupportedAlu, recorded, ⟨by simp, by simp⟩, fun r => ?_,
      fun b => by simp, by simp⟩
    exact State.x_congr (by simp [beginCycle_writeBack, State.touch]) r
  | ok mw m =>
    cases hx : exStage (exStart s m) with
    | ok em rd u =>
      rw [stepPipelined_exOk hm hx] at h
      split at h <;> cases h
      exact (ht ((cycleEnd_kept ..).run.trans ((exStage_kept hm hx).run.trans hr))).elim
    | refuse r =>
      rw [stepPipelined_exRefused hm hx] at h
      cases h
    | halt pc =>
      obtain ⟨q, hq, rfl, halts⟩ := exStage_halts hm hx
      obtain ⟨t', next, run, cp0, stops⟩ := stepPipelined_exHalt hm hx
      rw [h] at next
      cases next
      exact .inr ⟨q, mw, m, hq, rfl, stops.pc, stops.hiLo, stops.x, stops.mem, stops.dCache, .inl ⟨run, cp0, halts⟩⟩
    | trap pc k a =>
      obtain ⟨q, hq, rfl, traps, carried⟩ := exStage_traps hm hx
      obtain ⟨t', code, next, assigned, recorded, stops⟩ := stepPipelined_exTrap hm hx
      rw [h] at next
      cases next
      refine .inr ⟨q, mw, m, hq, rfl, stops.pc, stops.hiLo, stops.x, stops.mem, stops.dCache,
        .inr ⟨k, code, a, traps, recorded, assigned.imp_right fun kind => ⟨kind, carried kind⟩, fun faults => ?_⟩⟩
      refine exStage_trap_address hx fun q' k' hq' payload => ?_
      rw [(exStart_kept hm).idEx, hq] at hq'
      cases hq'
      exact faults k' payload

end Sys2Proof.Machine

/-! PROOFS of the statements of 50_core_single_cycle.md: the step of the single-cycle core (R302, R304, R306), and what the pipelined core makes of
the same faults and of `HALT_ADDR` (R330, R333, R337). -/

namespace Sys2Proof.Machine

/-! The step of the single-cycle core. -/

theorem step_single {s : State} (hr : s.run = .running) (hw : s.cfg.wellFormed = true) (hp : s.cfg.pipelined = false) :
    step s = stepSingle s := by
  rw [step_running hr, if_pos hw, hp]
  rfl

section
variable {s : State} (goes : s.cfg.haltAddr ≠ some s.pc) (hpc : s.pc.toNat % 4 = 0)
include goes hpc

theorem stepSingle_fetch : stepSingle s = fetchAndExec s.beginCycle := by
  have aligned : s.beginCycle.pcMisaligned = false := by rw [State.pcMisaligned, State.beginCycle_pc, (aligned4_iff s.pc).2 hpc]; rfl
  simp only [stepSingle, State.beginCycle_cfg, State.beginCycle_pc, if_neg goes, aligned, Bool.false_eq_true, if_false]

theorem stepSingle_fetched {w : Word} {s' : State} (fetch : s.beginCycle.fetchWord s.mem s.pc = .ok w s') :
    stepSingle s = execWord w (s'.emit (.fetch s.pc w)) := by
  rw [stepSingle_fetch goes hpc]
  simp only [fetchAndExec, State.beginCycle_mem, State.beginCycle_pc, fetch]

theorem stepSingle_unmapped (noRange : rangeOf s.cfg s.pc = none) :
    stepSingle s = .next (s.beginCycle.takeTrap s.beginCycle.pc (.busError .fetch) (some s.pc)) := by
  rw [stepSingle_fetch goes hpc]
  simp only [fetchAndExec, State.fetchWord, State.beginCycle_cfg, State.beginCycle_pc, noRange]

/-- R302, R308: the instruction fetched is executed, with the notifications of the fetch and of the execution begun. -/
theorem stepSingle_executes {i : Instr} {s' : State} (fetch : s.beginCycle.fetchWord s.mem s.pc = .ok (encode i) s') :
    stepSingle s = exec i { s' with events := [.fetch s.pc (encode i), .execute s.pc i] } := by
  rw [stepSingle_fetched goes hpc fetch]
  simp only [execWord, decode_encode]
  obtain ⟨k, d, rfl⟩ := State.fetchWord_ok fetch
  rfl

end

/-- R68: a fetch from RAM past the instruction cache. -/
theorem fetchWord_ram {s : State} {m : Memory} {a : Word} {r : Range} (hr : rangeOf s.cfg a = some r) (ram : r.backend = .ram)
    (past : s.cfg.iCache.enabled = false ∨ r.uncached = true) : s.fetchWord m a = .ok (m.word a) s := by
  have noCache : (s.cfg.iCache.enabled && !r.uncached) = false := by rcases past with off | uncached <;> simp [*]
  simp [State.fetchWord, State.backendRead, hr, noCache, ram, Memory.read]

/-- R142: the word at an address where memory holds the bytes of an instruction. -/
theorem Memory.word_of_encodeBytes {m : Memory} {a : Word} {i : Instr}
    (bytes : [m.byte a, m.byte (a + 1#32), m.byte (a + 2#32), m.byte (a + 3#32)] = encodeBytes i) : m.word a = encode i := by
  simp only [encodeBytes, bytesOfWord, List.cons.injEq, and_true] at bytes
  obtain ⟨b0, b1, b2, b3⟩ := bytes
  rw [Memory.word, b0, b1, b2, b3, wordOfBytes_byteOfWord]

/-! Carried faults (R323). -/

theorem CarriedKind.ne_unsupportedAlu {k : TrapKind} (h : CarriedKind k) : k ≠ .unsupportedAlu := by
  rcases h with rfl | rfl <;> simp

/-! The statements. -/

/-- Settles O6: the word fetched decodes to the instruction whose encoding it is. -/
theorem stepRunsTheDecodedInstruction : Obligations.StepRunsTheDecodedInstruction := by
  intro s i hr hw hp goes hpc
  rw [step_single hr hw hp]
  refine ⟨fun s' fetch => stepSingle_executes goes hpc fetch, fun r range ram past bytes => ?_⟩
  have fetch : s.beginCycle.fetchWord s.mem s.pc = .ok (s.mem.word s.pc) s.beginCycle := fetchWord_ram range ram past
  rw [Memory.word_of_encodeBytes bytes] at fetch
  exact stepSingle_executes goes hpc fetch

/-- Settles O7: on the pipelined core the fault is offered by IF, handed on by ID and taken in EX. -/
theorem fetchAndDecodeFaultsTrap : Obligations.FetchAndDecodeFaultsTrap := by
  refine ⟨fun s hr hw hp goes hpc => ⟨fun noRange => ?_, fun w s' fetch unknown => ?_⟩,
    fun s hr hw hp => ⟨fun hpc noRange exMem idEx ifId => ?_, fun d t hd noTransfer next run => ?_,
      fun q k mw m hq payload carried goes hm => ?_⟩⟩
  · rw [step_single hr hw hp, stepSingle_unmapped goes hpc noRange]
    exact ⟨_, rfl, takeTrap_traps (by simp [CodeOf]) (some s.pc) s.beginCycle⟩
  · rw [step_single hr hw hp, stepSingle_fetched goes hpc fetch]
    simp only [execWord, unknown]
    exact ⟨_, rfl, takeTrap_traps (by simp [CodeOf]) none (s'.emit (.fetch s.pc w))⟩
  · obtain ⟨t, next, run, _⟩ := step_of_empty hr hw hp hpc idEx exMem
    obtain ⟨rd, offered, on⟩ := goesOn_of_step hr hp next run
    obtain rfl := on.noTransfer (no_transfer_in_bubble idEx)
    have inId := idStage_bubble (s.writeBack_ifId.trans ifId)
    have fetching : fetches s = true := by rw [fetches, inId, structuralStall_of_empty exMem]; rfl
    obtain ⟨slot, _⟩ := on.fetched inId fetching
    exact ⟨t, next, run, slot.trans (on.unmapped fetching noRange)⟩
  · obtain ⟨rd, offered, on⟩ := goesOn_of_step hr hp next run
    obtain rfl := on.noTransfer noTransfer
    have hd' := s.writeBack_ifId.trans hd
    exact ⟨fun fault => on.handed (idStage_busError hd' fault), fun w word unknown => on.handed (idStage_unknown hd' word unknown)⟩
  · have started := exStart_kept hm
    have hx := exStage_fault (started.idEx.trans hq) (by rw [started.cfg]; exact goes) payload
    obtain ⟨t, code, next, assigned, recorded, stops⟩ := stepPipelined_exTrap hm hx
    exact ⟨t, code, (step_pipelined hr hw hp).trans next, assigned.resolve_right carried.ne_unsupportedAlu, recorded, stops.hiLo, stops.x,
      stops.mem, stops.dCache⟩

/-- Settles O8: each core tests for `HALT_ADDR` first, in the step and in EX. -/
theorem haltAddressStopsBeforeTheFetch : Obligations.HaltAddressStopsBeforeTheFetch := by
  refine ⟨fun s hr hw hp halts => ?_, fun s m q mw hr hw hp hq halts hm => ?_⟩
  · rw [step_single hr hw hp, stepSingle]
    exact if_pos halts
  · have started := exStart_kept hm
    have hx := exStage_haltAddr (started.idEx.trans hq) (by rw [started.cfg]; exact halts)
    obtain ⟨t, next, run, cp0, stops⟩ := stepPipelined_exHalt hm hx
    exact ⟨t, (step_pipelined hr hw hp).trans next, run, stops.pc, stops.hiLo, cp0, stops.x, stops.mem, stops.dCache, stops.iCache⟩

end Sys2Proof.Machine

/-! PROOFS of the statements of 70_reset_and_hazards.md: the state after reset (R401). -/

namespace Sys2Proof.Machine

/-- R41, R103: the lines of a cache after reset. -/
theorem Cache.reset_line_clean (c : CacheCfg) (s w : Nat) : ((Cache.reset c).line s w).valid = false ∧ ((Cache.reset c).line s w).dirty = false := by
  rw [Cache.line_reset]
  exact ⟨rfl, rfl⟩

/-- R20, R21: register 0 reads 0 after reset, and every other what the configuration gives it. -/
theorem x_resetWith (g : Config) (image : Memory) {q : Reg} (h : q ≠ 0#5) : (State.resetWith g image).x q = g.initGpr[q.toNat]'q.isLt := by
  have other : 0 ≠ q.toNat := fun e => h (BitVec.eq_of_toNat_eq e.symm)
  rw [State.x, if_neg h]
  exact Vector.getElem_set_ne (by decide) q.isLt other

/-- Settles O4: every field but the general registers and the cache lines is one that reset writes out. -/
theorem resetLeavesTheStatedValues : Obligations.ResetLeavesTheStatedValues := by
  refine ⟨fun q => ?_, rfl, rfl, fun c => ?_, fun g image => ?_⟩
  · by_cases h : q = 0#5
    · rw [h]
      exact State.x_zero _
    · refine (x_resetWith Config.default [] h).trans ?_
      simp [Config.default]
  · cases c <;> rfl
  · exact ⟨State.x_zero _, fun q h => x_resetWith g image h, rfl, rfl, rfl, rfl, rfl, rfl, rfl, rfl, rfl, rfl, rfl, rfl, rfl, rfl,
      Cache.reset_line_clean g.iCache, Cache.reset_line_clean g.dCache, rfl, rfl, rfl, rfl, rfl, rfl, rfl⟩

end Sys2Proof.Machine
